-- ==== Sys2Proof/Word.lean ====
section
/-! DEFINITION. The machine's word types (R6, R11): 4-bit data words, 8-bit program bytes, addresses. -/

namespace Sys2Proof

/-- A 4-bit data word, the source's "digit" (R11). -/
abbrev Nibble := BitVec 4

/-- An 8-bit byte of program memory, or an 8-bit register pair (R11). -/
abbrev Byte := BitVec 8

/-- A 13-bit program address PC12..PC0 (R25). -/
abbrev RomAddr := BitVec 13

/-- A 9-bit data-memory address `db:a8` (R36). -/
abbrev RamAddr := BitVec 9

/-- A sparse memory: a list of (address, byte) pairs in one canonical form (addresses strictly rising). An address
that is not listed holds no value (notes/assumptions/3.md, notes/assumptions/4.md). -/
abbrev Memory := List Host.Cell

/-- The high word of a byte, bits 7 to 4. -/
def hiNibble (b : Byte) : Nibble := b.extractLsb' 4 4

/-- The low word of a byte, bits 3 to 0. -/
def loNibble (b : Byte) : Nibble := b.extractLsb' 0 4

end Sys2Proof
end

