-- ==== Sys2Proof/Config.lean ====
section
/-! DEFINITION. The implementation parameters of the spec (R6 to R10) as a record of plain data, and the constants the
spec leaves open as opaque constants: nothing in Lean can evaluate one or prove a value of it. -/

namespace Sys2Proof

/-- The three parts; they differ only in ROM capacity (R1, R6). -/
inductive Part where
  | lc66354b
  | lc66356b
  | lc66358b
  deriving DecidableEq, Repr, Inhabited

/-- `SUBC_CIN` (R156): how `SUBC` reads CF. -/
inductive SubcCin where
  /-- The spec's default: M + ~AC + CF. -/
  | inverted
  /-- The printed operation: M - AC - CF. -/
  | literal
  deriving DecidableEq, Repr, Inhabited

/-- `DEC_CF` (R128): the sense of CF after a decrement. -/
inductive DecCf where
  /-- The spec's default: CF = 0 on a borrow. -/
  | borrowInverted
  /-- The other value of the parameter: CF = 1 on a borrow. -/
  | borrow
  deriving DecidableEq, Repr, Inhabited

/-- `DATA_BANK_RULE` (R66): what a BANK before a data-memory instruction does. -/
inductive DataBankRule where
  /-- The spec's default (its value `prefix`): the operand is in the RAM bank BNK selects. -/
  | byPrefix
  /-- Bank 0 always, and a data-memory instruction after BANK is Undefined. -/
  | none
  deriving DecidableEq, Repr, Inhabited

/-- `PORT_RMW` (R252): the old value that a port read-modify-write combines. -/
inductive PortRmw where
  | latch
  | pins
  deriving DecidableEq, Repr, Inhabited

/-- `IRQ_WINDOW_RULE` (R309): an interrupt that qualifies at a boundary where BNK or VSK is 1. -/
inductive IrqWindow where
  | undefined
  | defer
  deriving DecidableEq, Repr, Inhabited

/-- `IRQ_ENTRY_EFFECTS` (R308): which bits interrupt entry clears, and whether RTI sets MSE. -/
structure EntryEffects where
  /-- Entry clears IRQ[k]. -/
  clearsRequest : Bool
  /-- Entry clears MSE. -/
  clearsMaster : Bool
  /-- Entry clears the enable flag of the source taken. -/
  clearsEnable : Bool
  /-- RTI sets MSE. -/
  rtiSetsMaster : Bool
  deriving DecidableEq, Repr, Inhabited

/-- What one bit of an internal control register stands for under a supplied `CR_MAP` ("what state it aliases", R44):
any bit of the control state that the spec gives no closed list of writers or of readers; so not the prescaler, which is
visible through the timers only (R322). DESIGN CHOICE (notes/assumptions/21.md). -/
inductive CrBit where
  /-- The bit of that number in the register's own location. -/
  | location
  /-- A bit that reads as the constant and is not stored. -/
  | fixed (value : Bool)
  /-- Bits of the enable groups EDIH, EDIL (R33). -/
  | edih (b : Fin 4)
  | edil (b : Fin 4)
  /-- The request bit IRQ[k] (R45). -/
  | irq (k : Fin 8)
  /-- Bits of timer 0: reload register, counter, run bit (R39, R270). -/
  | t0r (b : Fin 12)
  | t0c (b : Fin 12)
  | t0run
  /-- Bits of timer 1: reload register A, the second reload register, counter, run bit (R39, R270, R321). -/
  | t1ra (b : Fin 8)
  | t1rb (b : Fin 8)
  | t1c (b : Fin 8)
  | t1run
  /-- Bits of the two serial registers, and the run bit (R40, R270). -/
  | sio (b : Fin 8)
  | sio2 (b : Fin 8)
  | siorun
  /-- A bit of the output latch with that index (R251). -/
  | latch (j : Fin 8) (b : Fin 4)
  /-- A comparator unit of PD (R325): PD0, PD1, PD2 with PD3. -/
  | comparator (unit : Fin 3)
  /-- A three-value input of PE (R326): PE0, PE1. -/
  | threeValue (pin : Fin 2)
  deriving DecidableEq, Repr, Inhabited

/-- One entry of `CR_MAP` (R44). An entry neither readable nor writable is a register that does not exist. -/
structure CrEntry where
  readable : Bool
  writable : Bool
  /-- What bits 0 to 3 stand for, each on its own. -/
  bits : Vector CrBit 4
  deriving DecidableEq, Repr, Inhabited

/-- The two pages of second bytes: after the prefix CFH (R99) and after CDH (R103). -/
inductive Page where
  | cf
  | cd
  deriving DecidableEq, Repr, Inhabited

/-- The place of a code on the second-byte pages. Of a row with a field the field's bits of `byte` count for nothing. -/
structure PageCode where
  page : Page
  byte : Byte
  deriving DecidableEq, Repr, Inhabited

/-- `ENC2` (R104, D1): the encodings of the 31 instructions whose code the source does not fix completely. -/
structure Enc2 where
  lhi : PageCode
  lli : PageCode
  ci : PageCode
  cli : PageCode
  cmb : PageCode
  ipdr : PageCode
  opdr : PageCode
  ip45 : PageCode
  op45 : PageCode
  wttm1 : PageCode
  rtim1 : PageCode
  start0 : PageCode
  start1 : PageCode
  stop0 : PageCode
  stop1 : PageCode
  mset : PageCode
  mreset : PageCode
  eih : PageCode
  eil : PageCode
  dih : PageCode
  dil : PageCode
  wtsp : PageCode
  rsp : PageCode
  halt : PageCode
  hold : PageCode
  starts : PageCode
  wtsio : PageCode
  rsio : PageCode
  sb : PageCode
  /-- The second byte of `ANDPDR` has the immediate in its high nibble; false: the port number. -/
  andpdrImmediateHigh : Bool
  /-- The same of `ORPDR`. -/
  orpdrImmediateHigh : Bool
  deriving DecidableEq, Repr, Inhabited

/-- The mask options fixed per chip at manufacture (R8). -/
structure Options where
  /-- `OPT_P0_RESET`, `OPT_P1_RESET`: true = high. -/
  p0ResetHigh : Bool
  p1ResetHigh : Bool
  /-- `OPT_OSC`: true = ceramic oscillator, false = external clock. -/
  ceramicOsc : Bool
  /-- `OPT_WDT`: true = watchdog timer present. -/
  watchdog : Bool
  /-- `OPT_OUT`: for P0 to P6 and PC (in that order), one bit a pin, 1 = built-in pull-up, 0 = open drain. -/
  pullUp : Vector Nibble 8
  deriving DecidableEq, Repr, Inhabited

/-- The parameters of R6 to R8 and R10 as plain data, held in State and changed by no step. -/
structure Conf where
  part : Part
  /-- `RESET_PC` (R49). -/
  resetPc : RomAddr
  /-- `STACK_BANK` (R71): the RAM bank that SP addresses, true = bank 1. -/
  stackBank : Bool
  subcCin : SubcCin
  decCf : DecCf
  /-- `VSKIP` (R41): true = on. -/
  vskip : Bool
  dataBankRule : DataBankRule
  portRmw : PortRmw
  irqWindow : IrqWindow
  entryEffects : EntryEffects
  /-- `VEC[0..7]` (R303). -/
  vec : Vector RomAddr 8
  /-- `IRQ_PRIORITY` (R304) as a rank for each source: the least rank wins, and of two equal ranks the lower source. -/
  irqRank : Vector (Fin 8) 8
  /-- `IRQ_ENABLE_MAP` (R33, R304): the enable flag of each source, 0..3 = EDIL bit 0..3, 4..7 = EDIH bit 0..3. -/
  irqEnableMap : Vector (Fin 8) 8
  /-- `CR_MAP` (R44): `none` is the spec's default. -/
  crMap : Option (Vector CrEntry 16)
  options : Options
  /-- `ENC2` (R104): what the decoder reads on the pages CFH and CDH and after C4H and C5H. -/
  enc2 : Enc2
  deriving DecidableEq, Repr, Inhabited

/-- `ROM_SIZE` in bytes (R6). -/
def Part.romSize : Part → Nat
  | .lc66354b => 4096
  | .lc66356b => 6144
  | .lc66358b => 8192

/-- `NBANKS`, the banks `SB` may select (R7). -/
def Part.nbanks : Part → Nat
  | .lc66354b => 1
  | .lc66356b => 2
  | .lc66358b => 2

/-- Which of the input-only pins have been switched from normal input (R325, R326). -/
structure InputModes where
  /-- PD0, PD1, and PD2 with PD3 used as comparator inputs: bits 0, 1, 2. -/
  comparators : BitVec 3
  /-- PE0 and PE1 used as three-value inputs: bits 0, 1. -/
  threeValue : BitVec 2
  deriving DecidableEq, Repr, Inhabited

/-- The state that R335 leaves unconstrained after HOLD mode. -/
structure HoldLoss where
  t0r : BitVec 12
  t0run : Bool
  t1rb : Byte
  t1c : Byte
  t1run : Bool
  prescaler : BitVec 12
  sio : Byte
  sio2 : Byte
  siorun : Bool
  inputModes : InputModes
  cr : Vector Nibble 16
  deriving DecidableEq, Repr, Inhabited

/-- What the serial interfaces hold after they have acted at a boundary (R323). -/
structure SerialState where
  sio : Byte
  sio2 : Byte
  running : Bool
  deriving DecidableEq, Repr, Inhabited

/-! ### Parameters without a default in the spec (R10, D6, D15, R8): each is what the implementation fixes. -/

/-- `STACK_BANK` of the chip (R71). -/
opaque Config.stackBank : Bool

/-- `VEC[0..7]` of the chip (R303). -/
opaque Config.vec : Vector RomAddr 8

/-- `IRQ_PRIORITY` of the chip (R304). -/
opaque Config.irqRank : Vector (Fin 8) 8

/-- `IRQ_ENABLE_MAP` of the chip (R33). -/
opaque Config.irqEnableMap : Vector (Fin 8) 8

/-- The mask options of the chip (R8). -/
opaque Config.options : Options

/-! ### Free values: an opaque constant applied to the counter `State.draws`. -/

/-- `PORT_IN` (R250): the levels the environment presents on a port's pins at the n-th draw. -/
opaque Config.portIn : (n : Nat) → (port : Nibble) → InputModes → Nibble

/-- `ZF_RFB` (R217): ZF after RFB. -/
opaque Config.zfAfterRfb : Nat → Bool

/-- `TIMER0_MODEL` (R320): timer 0's counter after the n-th boundary, from its run bit, reload register, counter and the
prescaler. -/
opaque Config.timer0Model : (n : Nat) → (run : Bool) → (reload counter prescaler : BitVec 12) → BitVec 12

/-- `TIMER1_MODEL` (R321): timer 1's counter after the n-th boundary, from its run bit, two reload registers, counter
and the prescaler. -/
opaque Config.timer1Model : (n : Nat) → (run : Bool) → (reloadA reloadB counter : Byte) → (prescaler : BitVec 12) → Byte

/-- The prescaler after the n-th boundary (R322). -/
opaque Config.prescalerModel : (n : Nat) → BitVec 12 → BitVec 12

/-- `SIO_MODEL` (R323): the serial registers after the n-th boundary while a transfer has been started. -/
opaque Config.sioModel : (n : Nat) → SerialState → SerialState

/-- What R335 leaves unconstrained after HOLD mode. -/
opaque Config.afterHold : Nat → HoldLoss

end Sys2Proof
end

