-- ==== Sys2Proof/Syntax.lean ====
section
/-! DEFINITION. The instructions: one constructor for each of the 128 rows of spec/opcode_table.json (R2), grouped as
the table is. Operands have the widths of R94. -/

namespace Sys2Proof

/-- The pair a load or exchange goes through (R94, `t0`): HL or XY. -/
inductive PtrReg where
  | hl
  | xy
  deriving DecidableEq, Repr

/-- The pair `PUSH` and `POP` name (R94, `i1 i0`); the fourth code is the source's "Illegal setting". -/
inductive PairReg where
  | hl
  | xy
  | ae
  deriving DecidableEq, Repr

/-- The instruction set. -/
inductive Instr where
  -- Accumulator manipulation (R121 to R133)
  | cla | daa | das | clc | stc | cma | ia | da | rar | ral | tae | tea | xae
  -- Memory manipulation (R141 to R146)
  | im | dm
  | imdr (i8 : Byte)
  | dmdr (i8 : Byte)
  | smb (t : BitVec 2)
  | rmb (t : BitVec 2)
  -- Arithmetic, logic and comparison (R152 to R165)
  | ad
  | addr (i8 : Byte)
  | adc
  | adi (i : Nibble)
  | subc | anda | ora | exl | andm | orm | cm
  | ci (i : Nibble)
  | cli (i : Nibble)
  | cmb (t : BitVec 2)
  -- Load and store (R171 to R185)
  | lai (i : Nibble)
  | lae
  | ladr (i8 : Byte)
  | s
  | sae
  | la (r : PtrReg)
  | laI (r : PtrReg)
  | laD (r : PtrReg)
  | xa (r : PtrReg)
  | xaI (r : PtrReg)
  | xaD (r : PtrReg)
  | xadr (i8 : Byte)
  | leai (i8 : Byte)
  | rtbl | rtblp
  -- Data pointer manipulation (R191 to R211)
  | ldz (i : Nibble)
  | lhi (i : Nibble)
  | lli (i : Nibble)
  | lhli (i8 : Byte)
  | lxyi (i8 : Byte)
  | il | dl | iy | dy
  | tah | tha | xah | tal | tla | xal | tax | txa | xax | tay | tya | xay
  -- Flag manipulation (R216, R217)
  | sfb (n : Nibble)
  | rfb (n : Nibble)
  -- Jump and subroutine (R221 to R231)
  | jmp (a : BitVec 12)
  | jpea
  | cal (a : BitVec 11)
  | czp (p : Nibble)
  | bank
  | push (r : PairReg)
  | pop (r : PairReg)
  | rt | rti
  -- Branch (R236 to R247)
  | ba (t : BitVec 2) (p : Byte)
  | bna (t : BitVec 2) (p : Byte)
  | bm (t : BitVec 2) (p : Byte)
  | bnm (t : BitVec 2) (p : Byte)
  | bp (t : BitVec 2) (p : Byte)
  | bnp (t : BitVec 2) (p : Byte)
  | bc (p : Byte)
  | bnc (p : Byte)
  | bz (p : Byte)
  | bnz (p : Byte)
  | bf (n : Nibble) (p : Byte)
  | bnf (n : Nibble) (p : Byte)
  -- I/O (R253 to R265)
  | ip0 | ip | ipm
  | ipdr (i : Nibble)
  | ip45
  | op | opm
  | opdr (i : Nibble)
  | op45
  | spb (t : BitVec 2)
  | rpb (t : BitVec 2)
  | andpdr (i : Nibble) (p : Nibble)
  | orpdr (i : Nibble) (p : Nibble)
  -- Timer, interrupt, standby, serial and other control (R271 to R296)
  | wttm0 | wttm1 | rtim0 | rtim1 | start0 | start1 | stop0 | stop1
  | mset | mreset
  | eih (i : Nibble)
  | eil (i : Nibble)
  | dih (i : Nibble)
  | dil (i : Nibble)
  | wtsp | rsp
  | halt | hold
  | starts | wtsio | rsio
  | nop
  | sb (i : BitVec 2)
  deriving DecidableEq, Repr

end Sys2Proof
end

