-- ==== Sys2Proof/WellFormed.lean ====
section
/-! DEFINITION. Which instructions have an encoding of their own. Five encodings belong to two rows of the table each
(R107, R356): the row with the larger mask is decoded (R108), and the other spelling is not well formed. The table is
that of the default `ENC2`; `Instr.encodable` of Decode.lean says the same of any `ENC2`. -/

namespace Sys2Proof

/-- The instruction is one the decoder can give: not `LAI 0` (that byte is `CLA`), not `ADI 6` or `ADI 0AH` (`DAA`,
`DAS`), not `EIH 0` or `DIH 0` (`MSET`, `MRESET`). Every other operand value of every instruction is encodable. -/
def Instr.wellFormed : Instr → Bool
  | .lai i => i != 0
  | .adi i => i != 6 && i != 10
  | .eih i => i != 0
  | .dih i => i != 0
  | _ => true

end Sys2Proof
end

