-- ==== Sys2Proof/Decode.lean ====
section
/-! DEFINITION. Decoding bytes to instructions and encoding instructions to bytes (R90 to R108), for any table `ENC2` of
the 31 encodings that the source does not fix (R104, D1; notes/assumptions/9.md). -/

namespace Sys2Proof

/-- Why bytes are no instruction (R105, R106). The machine's outcome is `Undefined(unassigned_opcode)` for each. -/
inductive DecodeError where
  /-- No row of the table assigns the first byte (R105). -/
  | unassignedFirstByte (b1 : Byte)
  /-- No row of the table assigns the second byte after this prefix byte (R106). -/
  | unassignedSecondByte (b1 b2 : Byte)
  /-- CF FE, `PUSH` with the source's "Illegal setting" (R106). -/
  | illegalSetting
  /-- There are fewer bytes than the instruction has. -/
  | endOfBytes
  deriving DecidableEq, Repr

/-- `L`, the length in bytes as a function of the first byte (R91); `none` for the unassigned first bytes. -/
def instrLength (b1 : Byte) : Option Nat :=
  match (hiNibble b1).toNat with
  | 5 => if (loNibble b1).toNat < 8 then some 2 else some 1
  | 9 => if (loNibble b1).toNat < 14 then some 2 else none
  | 11 => some 2
  | 12 =>
    if (loNibble b1).toNat < 10 then some 2
    else match (loNibble b1).toNat with
      | 10 => some 1
      | 11 => some 1
      | 13 => some 2
      | 15 => some 2
      | _ => none
  | 13 => if (loNibble b1).toNat < 14 then some 2 else none
  | 14 => some 2
  | 15 => some 2
  | _ => some 1

/-! ### One-byte instructions -/

/-- The one-byte codes without a field, 00H to 27H (R95). -/
def codes00 : List (Byte × Instr) :=
  [(0x00, .nop), (0x01, .ral), (0x02, .adc), (0x03, .andm), (0x04, .orm), (0x05, .ora), (0x06, .ad), (0x07, .anda),
   (0x10, .rar), (0x11, .il), (0x12, .im), (0x13, .iy), (0x14, .ia), (0x15, .exl), (0x16, .cm), (0x17, .subc),
   (0x18, .cma), (0x19, .ipm), (0x1A, .opm), (0x1B, .bank), (0x1C, .rt), (0x1D, .rti), (0x1E, .clc), (0x1F, .stc),
   (0x20, .ip0), (0x21, .dl), (0x22, .dm), (0x23, .dy), (0x24, .da), (0x25, .op), (0x26, .ip), (0x27, .jpea)]

/-- The one-byte codes without an immediate field, 40H to 5FH, 80H, CAH and CBH (R96, R97, R98); the pair selector of
`LA` and `XA` is bit D1 (R93). -/
def codes40 : List (Byte × Instr) :=
  [(0x40, .xah), (0x41, .xal), (0x42, .xax), (0x43, .xay), (0x44, .xae), (0x45, .tae), (0x46, .tea), (0x47, .s),
   (0x48, .la .hl), (0x49, .laI .hl), (0x4A, .la .xy), (0x4B, .laI .xy),
   (0x4C, .xa .hl), (0x4D, .xaI .hl), (0x4E, .xa .xy), (0x4F, .xaI .xy),
   (0x58, .rtblp), (0x59, .laD .hl), (0x5A, .rtbl), (0x5B, .laD .xy),
   (0x5C, .lae), (0x5D, .xaD .hl), (0x5E, .sae), (0x5F, .xaD .xy),
   (0x80, .cla), (0xCA, .wttm0), (0xCB, .rtim0)]

/-- The one-byte instructions with a field in D3..D0 or D1..D0 (formats I1 and T1 of R93). -/
def decodeField1 (b : Byte) : Option Instr :=
  let lo := loNibble b
  let t := lo.extractLsb' 0 2
  match (hiNibble b).toNat with
  | 0 => if lo.toNat < 8 then none else if lo.toNat < 12 then some (.spb t) else some (.smb t)
  | 2 => if lo.toNat < 8 then none else if lo.toNat < 12 then some (.rpb t) else some (.rmb t)
  | 3 => some (.rfb lo)
  | 6 => some (.ldz lo)
  | 7 => some (.sfb lo)
  | 8 => some (.lai lo)
  | 10 => some (.czp lo)
  | _ => none

/-- A one-byte instruction from its byte. -/
def decode1 (b : Byte) : Option Instr :=
  match codes00.lookup b with
  | some i => some i
  | none =>
    match codes40.lookup b with
    | some i => some i
    | none => decodeField1 b

/-! ### The second-byte pages -/

/-- The default `ENC2`: the completions of R104 (general knowledge of the spec, G2). -/
def defaultEnc2 : Enc2 :=
  { lhi := ⟨.cf, 0x00⟩, lli := ⟨.cf, 0x10⟩, ci := ⟨.cf, 0xA0⟩, cli := ⟨.cf, 0xB0⟩, cmb := ⟨.cf, 0xD0⟩
    ipdr := ⟨.cf, 0x60⟩, opdr := ⟨.cf, 0x70⟩, ip45 := ⟨.cf, 0xD4⟩, op45 := ⟨.cf, 0xD5⟩
    wttm1 := ⟨.cf, 0xF4⟩, rtim1 := ⟨.cf, 0xF5⟩
    start0 := ⟨.cf, 0xE6⟩, start1 := ⟨.cf, 0xE7⟩, stop0 := ⟨.cf, 0xF6⟩, stop1 := ⟨.cf, 0xF7⟩
    mset := ⟨.cd, 0x50⟩, mreset := ⟨.cd, 0x90⟩, eih := ⟨.cd, 0x50⟩, eil := ⟨.cd, 0x40⟩, dih := ⟨.cd, 0x90⟩
    dil := ⟨.cd, 0x80⟩
    wtsp := ⟨.cf, 0xDA⟩, rsp := ⟨.cf, 0xDB⟩, halt := ⟨.cf, 0xDE⟩, hold := ⟨.cf, 0xDF⟩
    starts := ⟨.cf, 0xEE⟩, wtsio := ⟨.cf, 0xEF⟩, rsio := ⟨.cf, 0xFF⟩, sb := ⟨.cf, 0xC0⟩
    andpdrImmediateHigh := true, orpdrImmediateHigh := true }

/-- The rows without a field: first those the source prints in full (R99, R100), then those of `ENC2`. -/
def Enc2.exactRows (e : Enc2) : List (PageCode × Instr) :=
  [(⟨.cf, 0x26⟩, .daa), (⟨.cf, 0x2A⟩, .das),
   (⟨.cf, 0xE0⟩, .tha), (⟨.cf, 0xE1⟩, .tla), (⟨.cf, 0xE2⟩, .txa), (⟨.cf, 0xE3⟩, .tya),
   (⟨.cf, 0xF0⟩, .tah), (⟨.cf, 0xF1⟩, .tal), (⟨.cf, 0xF2⟩, .tax), (⟨.cf, 0xF3⟩, .tay),
   (⟨.cf, 0xE8⟩, .pop .hl), (⟨.cf, 0xEA⟩, .pop .xy), (⟨.cf, 0xEC⟩, .pop .ae),
   (⟨.cf, 0xF8⟩, .push .hl), (⟨.cf, 0xFA⟩, .push .xy), (⟨.cf, 0xFC⟩, .push .ae),
   (e.ip45, .ip45), (e.op45, .op45), (e.wttm1, .wttm1), (e.rtim1, .rtim1), (e.start0, .start0), (e.start1, .start1),
   (e.stop0, .stop0), (e.stop1, .stop1), (e.mset, .mset), (e.mreset, .mreset), (e.wtsp, .wtsp), (e.rsp, .rsp),
   (e.halt, .halt), (e.hold, .hold), (e.starts, .starts), (e.wtsio, .wtsio), (e.rsio, .rsio)]

/-- The part of a code above a two-bit field (format XT of R93). -/
def PageCode.top6 (c : PageCode) : Page × BitVec 6 := (c.page, c.byte.extractLsb' 2 6)

/-- The part of a code above a four-bit field (format X4 of R93). -/
def PageCode.top4 (c : PageCode) : Page × Nibble := (c.page, hiNibble c.byte)

/-- The rows with a two-bit field in D1 D0 of the second byte. -/
def Enc2.bitRows (e : Enc2) : List ((Page × BitVec 6) × (BitVec 2 → Instr)) := [(e.cmb.top6, .cmb), (e.sb.top6, .sb)]

/-- The rows with an immediate in D3 to D0 of the second byte: `ADI` by R100, the others by `ENC2`. -/
def Enc2.immediateRows (e : Enc2) : List ((Page × Nibble) × (Nibble → Instr)) :=
  [((.cf, 0x2), .adi), (e.lhi.top4, .lhi), (e.lli.top4, .lli), (e.ci.top4, .ci), (e.cli.top4, .cli),
   (e.ipdr.top4, .ipdr), (e.opdr.top4, .opdr), (e.eih.top4, .eih), (e.eil.top4, .eil), (e.dih.top4, .dih),
   (e.dil.top4, .dil)]

/-- CF FE, the "Illegal setting" of `PUSH`, is unassigned whatever `ENC2` is (R106). -/
def illegalCode : PageCode := ⟨.cf, 0xFE⟩

/-- The instruction without a field at a place of a page. -/
def Enc2.exactAt (e : Enc2) (c : PageCode) : Option Instr := e.exactRows.lookup c

/-- The instruction with a two-bit field at a place of a page. -/
def Enc2.bitAt (e : Enc2) (c : PageCode) : Option Instr :=
  (e.bitRows.lookup c.top6).map fun mk => mk (c.byte.extractLsb' 0 2)

/-- The instruction with an immediate at a place of a page. -/
def Enc2.immediateAt (e : Enc2) (c : PageCode) : Option Instr :=
  (e.immediateRows.lookup c.top4).map fun mk => mk (loNibble c.byte)

/-- A second byte on its page, the rows with the larger mask first (R108): so `MSET` before `EIH`. -/
def Enc2.decodePage (e : Enc2) (c : PageCode) : Option Instr :=
  if c = illegalCode then none else ((e.exactAt c).or (e.bitAt c)).or (e.immediateAt c)

/-- No row without a field has this place of a page, so a row with a field may be decoded there. -/
def Enc2.exactFree (e : Enc2) (c : PageCode) : Bool := c != illegalCode && (e.exactAt c).isNone

/-- No row with a larger mask than an immediate's has this place of a page. -/
def Enc2.bitFree (e : Enc2) (c : PageCode) : Bool := e.exactFree c && (e.bitAt c).isNone

/-- A table in which no two rows of one shape share a code and none is the illegal setting. -/
def Enc2.legal (e : Enc2) : Bool :=
  decide ((e.exactRows.map Prod.fst).Nodup ∧ (e.bitRows.map Prod.fst).Nodup ∧ (e.immediateRows.map Prod.fst).Nodup ∧
    illegalCode ∉ e.exactRows.map Prod.fst)

/-! ### Two-byte instructions -/

/-- A branch on a bit of AC, M(HL) or P(DPL) or on a flag, taken when it is one (D0H to DDH), from the low nibble of
the first byte (R98). -/
def decodeBranchOn (lo : Nibble) (p : Byte) : Option Instr :=
  let t := lo.extractLsb' 0 2
  if lo.toNat < 4 then some (.ba t p)
  else if lo.toNat < 8 then some (.bm t p)
  else if lo.toNat < 12 then some (.bp t p)
  else if lo.toNat = 12 then some (.bc p)
  else if lo.toNat = 13 then some (.bz p)
  else none

/-- The partners of `decodeBranchOn`, taken when the bit is zero (90H to 9DH, R97). -/
def decodeBranchOnNo (lo : Nibble) (p : Byte) : Option Instr :=
  let t := lo.extractLsb' 0 2
  if lo.toNat < 4 then some (.bna t p)
  else if lo.toNat < 8 then some (.bnm t p)
  else if lo.toNat < 12 then some (.bnp t p)
  else if lo.toNat = 12 then some (.bnc p)
  else if lo.toNat = 13 then some (.bnz p)
  else none

/-- The immediate and the port number in the second byte of `ANDPDR` and `ORPDR` (format IP of R93). -/
def portFields (immediateHigh : Bool) (b : Byte) : Nibble × Nibble :=
  if immediateHigh then (hiNibble b, loNibble b) else (loNibble b, hiNibble b)

/-- First bytes C0H to CFH of two-byte instructions (R98). -/
def decodeC (e : Enc2) (lo : Nibble) (b2 : Byte) : Option Instr :=
  match lo.toNat with
  | 0 => some (.lhli b2)
  | 1 => some (.ladr b2)
  | 2 => some (.lxyi b2)
  | 3 => some (.dmdr b2)
  | 4 => let f := portFields e.orpdrImmediateHigh b2
         some (.orpdr f.1 f.2)
  | 5 => let f := portFields e.andpdrImmediateHigh b2
         some (.andpdr f.1 f.2)
  | 6 => some (.leai b2)
  | 7 => some (.imdr b2)
  | 8 => some (.xadr b2)
  | 9 => some (.addr b2)
  | 13 => e.decodePage ⟨.cd, b2⟩
  | 15 => e.decodePage ⟨.cf, b2⟩
  | _ => none

/-- A two-byte instruction from its bytes. -/
def decode2 (e : Enc2) (b1 b2 : Byte) : Option Instr :=
  let lo := loNibble b1
  match (hiNibble b1).toNat with
  | 5 => some (.cal (lo.extractLsb' 0 3 ++ b2))
  | 9 => decodeBranchOnNo lo b2
  | 11 => some (.bnf lo b2)
  | 12 => decodeC e lo b2
  | 13 => decodeBranchOn lo b2
  | 14 => some (.jmp (lo ++ b2))
  | 15 => some (.bf lo b2)
  | _ => none

/-- The decoder (R108), total on any bytes: the instruction at the head of the bytes and the bytes after it. -/
def decode (e : Enc2) : List Byte → Except DecodeError (Instr × List Byte)
  | [] => .error .endOfBytes
  | b1 :: rest =>
    match instrLength b1 with
    | none => .error (.unassignedFirstByte b1)
    | some 1 =>
      match decode1 b1 with
      | some i => .ok (i, rest)
      | none => .error (.unassignedFirstByte b1)
    | some _ =>
      match rest with
      | [] => .error .endOfBytes
      | b2 :: rest' =>
        match decode2 e b1 b2 with
        | some i => .ok (i, rest')
        | none => if b1 = 0xCF ∧ b2 = 0xFE then .error .illegalSetting else .error (.unassignedSecondByte b1 b2)

/-! ### The encoder -/

/-- The pair selector `t0` of `LA` and `XA` (R94), already in its place D1. -/
def PtrReg.code : PtrReg → Byte
  | .hl => 0x00
  | .xy => 0x02

/-- The pair selector `i1 i0` of `PUSH` and `POP` (R94), already in its place D2 D1. -/
def PairReg.code : PairReg → Byte
  | .hl => 0x00
  | .xy => 0x02
  | .ae => 0x04

/-- The prefix byte of a page. -/
def Page.prefixByte : Page → Byte
  | .cf => 0xCF
  | .cd => 0xCD

/-- The place of a code with the two-bit field `t`. -/
def PageCode.withBit (c : PageCode) (t : BitVec 2) : PageCode := ⟨c.page, (c.byte.extractLsb' 2 6 ++ t : Byte)⟩

/-- The place of a code with the immediate `i`. -/
def PageCode.withImmediate (c : PageCode) (i : Nibble) : PageCode := ⟨c.page, (hiNibble c.byte ++ i : Byte)⟩

/-- The two bytes of a place on a page. -/
def PageCode.bytes (c : PageCode) : List Byte := [c.page.prefixByte, c.byte]

/-- The second byte of `ANDPDR` and `ORPDR`. -/
def portByte (immediateHigh : Bool) (i p : Nibble) : Byte := if immediateHigh then (i ++ p : Byte) else (p ++ i : Byte)

/-- An instruction's bytes, first byte first (R60, R93 to R104). -/
def encode (e : Enc2) : Instr → List Byte
  | .cla => [0x80] | .daa => [0xCF, 0x26] | .das => [0xCF, 0x2A] | .clc => [0x1E] | .stc => [0x1F] | .cma => [0x18]
  | .ia => [0x14] | .da => [0x24] | .rar => [0x10] | .ral => [0x01] | .tae => [0x45] | .tea => [0x46] | .xae => [0x44]
  | .im => [0x12] | .dm => [0x22]
  | .imdr i8 => [0xC7, i8]
  | .dmdr i8 => [0xC3, i8]
  | .smb t => [(0b000011#6 ++ t : Byte)]
  | .rmb t => [(0b001011#6 ++ t : Byte)]
  | .ad => [0x06]
  | .addr i8 => [0xC9, i8]
  | .adc => [0x02]
  | .adi i => [0xCF, (0x2#4 ++ i : Byte)]
  | .subc => [0x17] | .anda => [0x07] | .ora => [0x05] | .exl => [0x15] | .andm => [0x03] | .orm => [0x04]
  | .cm => [0x16]
  | .ci i => (e.ci.withImmediate i).bytes
  | .cli i => (e.cli.withImmediate i).bytes
  | .cmb t => (e.cmb.withBit t).bytes
  | .lai i => [(0x8#4 ++ i : Byte)]
  | .lae => [0x5C]
  | .ladr i8 => [0xC1, i8]
  | .s => [0x47] | .sae => [0x5E]
  | .la r => [0x48 ||| r.code]
  | .laI r => [0x49 ||| r.code]
  | .laD r => [0x59 ||| r.code]
  | .xa r => [0x4C ||| r.code]
  | .xaI r => [0x4D ||| r.code]
  | .xaD r => [0x5D ||| r.code]
  | .xadr i8 => [0xC8, i8]
  | .leai i8 => [0xC6, i8]
  | .rtbl => [0x5A] | .rtblp => [0x58]
  | .ldz i => [(0x6#4 ++ i : Byte)]
  | .lhi i => (e.lhi.withImmediate i).bytes
  | .lli i => (e.lli.withImmediate i).bytes
  | .lhli i8 => [0xC0, i8]
  | .lxyi i8 => [0xC2, i8]
  | .il => [0x11] | .dl => [0x21] | .iy => [0x13] | .dy => [0x23]
  | .tah => [0xCF, 0xF0] | .tha => [0xCF, 0xE0] | .xah => [0x40]
  | .tal => [0xCF, 0xF1] | .tla => [0xCF, 0xE1] | .xal => [0x41]
  | .tax => [0xCF, 0xF2] | .txa => [0xCF, 0xE2] | .xax => [0x42]
  | .tay => [0xCF, 0xF3] | .tya => [0xCF, 0xE3] | .xay => [0x43]
  | .sfb n => [(0x7#4 ++ n : Byte)]
  | .rfb n => [(0x3#4 ++ n : Byte)]
  | .jmp a => [(0xE#4 ++ a.extractLsb' 8 4 : Byte), a.extractLsb' 0 8]
  | .jpea => [0x27]
  | .cal a => [(0b01010#5 ++ a.extractLsb' 8 3 : Byte), a.extractLsb' 0 8]
  | .czp p => [(0xA#4 ++ p : Byte)]
  | .bank => [0x1B]
  | .push r => [0xCF, 0xF8 ||| r.code]
  | .pop r => [0xCF, 0xE8 ||| r.code]
  | .rt => [0x1C] | .rti => [0x1D]
  | .ba t p => [(0b110100#6 ++ t : Byte), p]
  | .bna t p => [(0b100100#6 ++ t : Byte), p]
  | .bm t p => [(0b110101#6 ++ t : Byte), p]
  | .bnm t p => [(0b100101#6 ++ t : Byte), p]
  | .bp t p => [(0b110110#6 ++ t : Byte), p]
  | .bnp t p => [(0b100110#6 ++ t : Byte), p]
  | .bc p => [0xDC, p] | .bnc p => [0x9C, p] | .bz p => [0xDD, p] | .bnz p => [0x9D, p]
  | .bf n p => [(0xF#4 ++ n : Byte), p]
  | .bnf n p => [(0xB#4 ++ n : Byte), p]
  | .ip0 => [0x20] | .ip => [0x26] | .ipm => [0x19]
  | .ipdr i => (e.ipdr.withImmediate i).bytes
  | .ip45 => e.ip45.bytes
  | .op => [0x25] | .opm => [0x1A]
  | .opdr i => (e.opdr.withImmediate i).bytes
  | .op45 => e.op45.bytes
  | .spb t => [(0b000010#6 ++ t : Byte)]
  | .rpb t => [(0b001010#6 ++ t : Byte)]
  | .andpdr i p => [0xC5, portByte e.andpdrImmediateHigh i p]
  | .orpdr i p => [0xC4, portByte e.orpdrImmediateHigh i p]
  | .wttm0 => [0xCA] | .wttm1 => e.wttm1.bytes | .rtim0 => [0xCB] | .rtim1 => e.rtim1.bytes
  | .start0 => e.start0.bytes | .start1 => e.start1.bytes | .stop0 => e.stop0.bytes | .stop1 => e.stop1.bytes
  | .mset => e.mset.bytes | .mreset => e.mreset.bytes
  | .eih i => (e.eih.withImmediate i).bytes
  | .eil i => (e.eil.withImmediate i).bytes
  | .dih i => (e.dih.withImmediate i).bytes
  | .dil i => (e.dil.withImmediate i).bytes
  | .wtsp => e.wtsp.bytes | .rsp => e.rsp.bytes
  | .halt => e.halt.bytes | .hold => e.hold.bytes
  | .starts => e.starts.bytes | .wtsio => e.wtsio.bytes | .rsio => e.rsio.bytes
  | .nop => [0x00]
  | .sb i => (e.sb.withBit i).bytes

/-- The instruction is what the decoder gives for its encoding: no row with a larger mask has that code (R107, R108).
Under the default `ENC2` these are the instructions that `Instr.wellFormed` lists. -/
def Instr.encodable (e : Enc2) : Instr → Bool
  | .lai i => i != 0
  | .adi i => e.bitFree ⟨.cf, (0x2#4 ++ i : Byte)⟩
  | .lhi i => e.bitFree (e.lhi.withImmediate i)
  | .lli i => e.bitFree (e.lli.withImmediate i)
  | .ci i => e.bitFree (e.ci.withImmediate i)
  | .cli i => e.bitFree (e.cli.withImmediate i)
  | .ipdr i => e.bitFree (e.ipdr.withImmediate i)
  | .opdr i => e.bitFree (e.opdr.withImmediate i)
  | .eih i => e.bitFree (e.eih.withImmediate i)
  | .eil i => e.bitFree (e.eil.withImmediate i)
  | .dih i => e.bitFree (e.dih.withImmediate i)
  | .dil i => e.bitFree (e.dil.withImmediate i)
  | .cmb t => e.exactFree (e.cmb.withBit t)
  | .sb i => e.exactFree (e.sb.withBit i)
  | _ => true

/-- The table's "Number of bytes" (R90, R361); no `ENC2` changes it. -/
def Instr.size : Instr → Nat
  | .cla | .clc | .stc | .cma | .ia | .da | .rar | .ral | .tae | .tea | .xae | .im | .dm | .smb _ | .rmb _ | .ad | .adc
  | .subc | .anda | .ora | .exl | .andm | .orm | .cm | .lai _ | .lae | .s | .sae | .la _ | .laI _ | .laD _ | .xa _
  | .xaI _ | .xaD _ | .rtbl | .rtblp | .ldz _ | .il | .dl | .iy | .dy | .xah | .xal | .xax | .xay | .sfb _ | .rfb _
  | .jpea | .czp _ | .bank | .rt | .rti | .ip0 | .ip | .ipm | .op | .opm | .spb _ | .rpb _ | .wttm0 | .rtim0 | .nop => 1
  | .daa | .das | .imdr _ | .dmdr _ | .addr _ | .adi _ | .ci _ | .cli _ | .cmb _ | .ladr _ | .xadr _ | .leai _ | .lhi _
  | .lli _ | .lhli _ | .lxyi _ | .tah | .tha | .tal | .tla | .tax | .txa | .tay | .tya | .jmp _ | .cal _ | .push _
  | .pop _ | .ba _ _ | .bna _ _ | .bm _ _ | .bnm _ _ | .bp _ _ | .bnp _ _ | .bc _ | .bnc _ | .bz _ | .bnz _ | .bf _ _
  | .bnf _ _ | .ipdr _ | .ip45 | .opdr _ | .op45 | .andpdr _ _ | .orpdr _ _ | .wttm1 | .rtim1 | .start0 | .start1
  | .stop0 | .stop1 | .mset | .mreset | .eih _ | .eil _ | .dih _ | .dil _ | .wtsp | .rsp | .halt | .hold | .starts
  | .wtsio | .rsio | .sb _ => 2

/-- The table's "Number of cycles" (R361): 2 for every two-byte instruction and for the one-byte ones listed there, 1
for the rest. No rule of the machine depends on it (D29). -/
def Instr.cycles : Instr → Nat
  | .laI _ => 2 | .laD _ => 2 | .xaI _ => 2 | .xaD _ => 2
  | .rtbl => 2 | .rtblp => 2 | .czp _ => 2 | .rt => 2 | .rti => 2 | .wttm0 => 2 | .rtim0 => 2
  | i => i.size

/-! ### The table's numbering of bits -/

/-- The bytes of the `nbits`-bit word `w`, first byte first. The table numbers a two-byte row as one 16-bit word with
byte 1 in bits 15 to 8 (R93); bytes past `nbits`, up to the two of the longest instruction, are 0. -/
def tableBytes (nbits w : Nat) : List Byte :=
  if nbits ≤ 8 then [BitVec.ofNat 8 w, 0] else [BitVec.ofNat 8 (w / 256), BitVec.ofNat 8 w]

/-- The instruction the decoder reads, under the default `ENC2` that spec/opcode_table.json has, from an instruction whose
bits are `w` in the table's numbering. -/
def decodeTableWord (nbits w : Nat) : Option Instr :=
  match decode defaultEnc2 (tableBytes nbits w) with
  | .ok (i, _) => some i
  | .error _ => none

end Sys2Proof
end

