-- ==== Sys2Proof/Machine/Params.lean ====
section
/-! DEFINITION. The chip that `State.reset` is a state of: the spec's default for every parameter that has one (R10), an
opaque constant of Config for every parameter that has none. Statements are over all states, so over every `Conf`. -/

namespace Sys2Proof.Machine

/-- `RESET_PC` = 0000H (R49; notes/assumptions/2.md). -/
def defaultResetPc : RomAddr := 0x0000

/-- The default `IRQ_ENTRY_EFFECTS` (R308): entry does `IRQ[k] <- 0` and `MSE <- 0`; RTI does not touch MSE. -/
def defaultEntryEffects : EntryEffects :=
  { clearsRequest := true, clearsMaster := true, clearsEnable := false, rtiSetsMaster := false }

/-- The parameters of the machine after `State.reset`. DESIGN CHOICE: the part is the LC66358B
(notes/assumptions/7.md); `IRQ_WINDOW_RULE` is `defer`, which R309 allows (notes/assumptions/24.md). -/
def chip : Conf :=
  { part := .lc66358b
    resetPc := defaultResetPc
    stackBank := Config.stackBank
    subcCin := .inverted
    decCf := .borrowInverted
    vskip := true
    dataBankRule := .byPrefix
    portRmw := .latch
    irqWindow := .defer
    entryEffects := defaultEntryEffects
    vec := Config.vec
    irqRank := Config.irqRank
    irqEnableMap := Config.irqEnableMap
    crMap := none
    options := Config.options
    enc2 := defaultEnc2 }

/-- "The value FFC is loaded" into timer 0 on reset and when HOLD mode is cleared (R48, R335). -/
def timer0ResetValue : BitVec 12 := 0xFFC

/-- The output latches after reset (R48, R341), in the order PL[0..6], PL[12]: ports 0 and 1 by option, the others all
ones. DESIGN CHOICE: the bits R341 writes x are 1 (notes/assumptions/1.md). -/
def resetLatches (o : Options) : Vector Nibble 8 :=
  #v[if o.p0ResetHigh then 0xF else 0x0, if o.p1ResetHigh then 0xF else 0x0, 0xF, 0xF, 0xF, 0xF, 0xF, 0xF]

/-- "Normal input": the comparator and three-value functions are off (R48). -/
def normalInput : InputModes := { comparators := 0, threeValue := 0 }

end Sys2Proof.Machine
end

