-- ==== Sys2Proof/Machine/State.lean ====
section
/-! DEFINITION. The state of the machine as plain data (10_state.md), the reasons a step can stop, and the state right
after reset. -/

namespace Sys2Proof.Machine

/-- `MODE` (R46). -/
inductive Mode where
  | run
  | halt
  | hold
  deriving DecidableEq, Repr, Inhabited

/-- What the environment presents at the coming boundary (R80, R301): the model's own field (notes/assumptions/25.md). -/
structure Env where
  /-- RES has been low for at least 3 Tcyc (R340). -/
  resLow : Bool
  /-- The watchdog timer expires; it has an effect only where the option is present (R324). -/
  watchdogExpired : Bool
  /-- The requests raised since the last boundary, bit k = source k (R302, R311). -/
  irqEvents : BitVec 8
  /-- The port 0 control function releases HALT mode, `HALT_RELEASE` (R331). -/
  haltRelease : Bool
  /-- The pin levels of the sixteen port numbers, where the run gives them; `none`: the opaque `PORT_IN` (R250). -/
  pins : Option (Vector Nibble 16)
  deriving DecidableEq, Repr

/-- Nothing happens at the coming boundary and the pins are the oracle's. -/
def Env.quiet : Env :=
  { resLow := false, watchdogExpired := false, irqEvents := 0, haltRelease := false, pins := none }

/-- The machine's state. Registers, flags and hidden state as 10_state.md names them; `conf`, `env` and `draws` are the
model's own fields. -/
structure State where
  /-- Accumulator (R20). -/
  ac : Nibble
  /-- E register (R21). -/
  e : Nibble
  /-- Data pointers (R22). -/
  dph : Nibble
  dpl : Nibble
  dpx : Nibble
  dpy : Nibble
  /-- Stack pointer (R24). -/
  sp : Byte
  /-- Program counter (R25). -/
  pc : RomAddr
  /-- Carry flag (R28). -/
  cf : Bool
  /-- Zero flag (R29). -/
  zf : Bool
  /-- User flags F[0..15] (R31). -/
  uf : Vector Bool 16
  /-- Interrupt master enable flag (R32). -/
  mse : Bool
  /-- Interrupt enable groups (R33). -/
  edih : Nibble
  edil : Nibble
  /-- Pending requests IRQ[7..0] (R45). -/
  irq : BitVec 8
  /-- RUN, HALT or HOLD (R46). -/
  mode : Mode
  /-- Bank prefix state (R42). -/
  bnk : Bool
  /-- Vertical-skip state (R41). -/
  vsk : Bool
  /-- ROM bank selection written by SB (R43). -/
  sbr : BitVec 2
  /-- Timer 0: reload register, counter, run bit (R39, R270). -/
  t0r : BitVec 12
  t0c : BitVec 12
  t0run : Bool
  /-- Timer 1: reload registers A and the second, counter, run bit (R39, R270, R321). -/
  t1ra : Byte
  t1rb : Byte
  t1c : Byte
  t1run : Bool
  /-- The 12-bit prescaler (R322). -/
  prescaler : BitVec 12
  /-- The serial register the instructions address, the other serial register, the run bit (R6, R40, R270). -/
  sio : Byte
  sio2 : Byte
  siorun : Bool
  /-- Output latches PL[0..6] and PL[12] (R38, R251), at indices 0 to 6 and 7. -/
  pl : Vector Nibble 8
  /-- Comparator and three-value input modes (R325, R326). -/
  inputModes : InputModes
  /-- Internal control registers CR[0..15] (R44). -/
  cr : Vector Nibble 16
  /-- Data memory: 512 words, a cell's byte holding the 4-bit word (R36). -/
  ram : Memory
  /-- Program memory, mask ROM (R35). -/
  rom : Memory
  /-- The parameters (R8, R10); no step changes them. -/
  conf : Conf
  /-- The environment at the coming boundary. -/
  env : Env
  /-- How many free values have been drawn (notes/assumptions/17.md). -/
  draws : Nat
  deriving DecidableEq, Repr

/-- Why the machine stops: the spec's `Undefined(reason)` (R14, R300), an outcome of the spec and no event of the
machine. Every one is safe: the model stops where the hardware does something the spec does not give. -/
inductive Fault where
  /-- Fetch: the bytes at PC are no row of the table (R105, R106). Safe. -/
  | unassignedOpcode
  /-- Fetch, RTBL, RTBLP, JMP and every use of NPC: an address at or past ROM_SIZE, or one in another bank (R27, R221,
  R354). Safe. -/
  | pcOutOfBankOrRom
  /-- An instruction reads a RAM word that nothing has written since reset (R50). Safe. -/
  | readOfUnwrittenState
  /-- LAE, SAE, WTTM0, RTIM0 with DPL odd (R65). Safe. -/
  | m2OddAddress
  /-- A data-memory instruction after BANK, only where DATA_BANK_RULE is `none` (R66). Safe. -/
  | bankPrefixOnMemoryOperand
  /-- A port instruction after BANK, where CR_MAP gives no such access (R44). Safe. -/
  | controlRegisterMapNotInSource
  /-- A taken branch, JPEA, RTBL or RTBLP that ends its page (R235, R224, R184). Safe. -/
  | pageBoundaryTransfer
  /-- An interrupt that qualifies while BNK or VSK is 1, only where IRQ_WINDOW_RULE is `undefined` (R309). Safe. -/
  | interruptInPrefixWindow
  /-- A write to PD, PE or a port number without pins (R251). Safe. -/
  | writeToInputOnlyOrAbsentPort
  /-- SB with a bank the part does not have (R296). Safe. -/
  | sbBankAbsent
  /-- Fetch, RTBL, RTBLP: a ROM address whose byte the image in State does not list (notes/assumptions/4.md). Safe. -/
  | romByteNotGiven
  deriving DecidableEq, Repr

/-- Why an instruction has no meaning in the model. -/
inductive Refusal where
  /-- The instruction's arm has no meaning; raised by `exec` only. Safe: the model stops. No arm answers so now. -/
  | notModelled (mnemonic : String)
  deriving DecidableEq, Repr

/-- The outcome of a step or of an instruction. -/
abbrev Outcome := Host.Outcome State Fault Refusal

/-- The state right after reset of the chip with the parameters `c` (R48, R49, R341): timer 0, the latches and the
input modes as the source says; PC, MSE, BNK, VSK, MODE and IRQ as R49 says. DESIGN CHOICE: every other register is 0
(notes/assumptions/1.md) and T0R is FFCH (notes/assumptions/5.md). No RAM word has a value; ROM is as manufactured,
with nothing listed. -/
def State.resetOf (c : Conf) : State :=
  { ac := 0, e := 0, dph := 0, dpl := 0, dpx := 0, dpy := 0, sp := 0
    pc := c.resetPc
    cf := false, zf := false
    uf := Vector.replicate 16 false
    mse := false, edih := 0, edil := 0, irq := 0
    mode := .run, bnk := false, vsk := false, sbr := 0
    t0r := timer0ResetValue, t0c := timer0ResetValue, t0run := false
    t1ra := 0, t1rb := 0, t1c := 0, t1run := false
    prescaler := 0
    sio := 0, sio2 := 0, siorun := false
    pl := resetLatches c.options
    inputModes := normalInput
    cr := Vector.replicate 16 0
    ram := [], rom := []
    conf := c
    env := .quiet
    draws := 0 }

/-- The machine right after reset. -/
def State.reset : State := State.resetOf chip

end Sys2Proof.Machine
end

