-- ==== Sys2Proof/Machine/Flags.lean ====
section
/-! DEFINITION. The arithmetic law and the flag rules (R14, R28, R29, R150). -/

namespace Sys2Proof.Machine

/-- `add4(a, b, c)` (R14): the 4-bit sum and the carry out of bit 3. -/
def add4 (a b : Nibble) (c : Bool) : Nibble × Bool :=
  let sum := a.toNat + b.toNat + c.toNat
  (BitVec.ofNat 4 sum, decide (16 ≤ sum))

/-- `Z(v)` (R14). -/
def isZero (v : Nibble) : Bool := v == 0

/-- `setbit(v, t)` (R14). -/
def setBit (v : Nibble) (t : BitVec 2) : Nibble := v ||| ((1 : Nibble) <<< t.toNat)

/-- `clrbit(v, t)` (R14). -/
def clearBit (v : Nibble) (t : BitVec 2) : Nibble := v &&& ~~~((1 : Nibble) <<< t.toNat)

/-- Bit `t` of a word (R11). -/
def bitOf (v : Nibble) (t : BitVec 2) : Bool := v.getLsbD t.toNat

/-- An increment and its carry (R127, R141). -/
def increment (v : Nibble) : Nibble × Bool := add4 v 1 false

/-- A decrement and CF after it, by `DEC_CF` (R128, R142). -/
def decrement (c : Conf) (v : Nibble) : Nibble × Bool :=
  let (r, carry) := add4 v 15 false
  (r, match c.decCf with
    | .borrowInverted => carry
    | .borrow => !carry)

/-- The subtraction of `SUBC` and its carry out, by `SUBC_CIN` (R156). -/
def subtractWithCarry (c : Conf) (m ac : Nibble) (cf : Bool) : Nibble × Bool :=
  match c.subcCin with
  | .inverted => add4 m (~~~ac) cf
  | .literal => add4 m (~~~ac) (!cf)

/-- The comparison sum `~x + AC + 1` of `CM` and `CI` (R162, R163). -/
def compareSum (x ac : Nibble) : Nibble × Bool := add4 (~~~x) ac true

/-- `AC <- r`, `ZF <- Z(r)`. -/
def State.setAcZ (s : State) (r : Nibble) : State := { s with ac := r, zf := isZero r }

/-- `AC <- r`, `CF <- c`, `ZF <- Z(r)` for the pair `(r, c)`. -/
def State.setAcCZ (s : State) (rc : Nibble × Bool) : State := { s with ac := rc.1, cf := rc.2, zf := isZero rc.1 }

/-- `CF <- c`, `ZF <- Z(r)` for the pair `(r, c)`. -/
def State.setCZ (s : State) (rc : Nibble × Bool) : State := { s with cf := rc.2, zf := isZero rc.1 }

/-- `ZF <- b`. -/
def State.setZ (s : State) (b : Bool) : State := { s with zf := b }

end Sys2Proof.Machine
end

