-- ==== Sys2Proof/Machine/Memory.lean ====
section
/-! DEFINITION. The two memories as lists in canonical form, and their primitives `MemRead`, `MemWrite` and `RomRead`
(R13, R35, R36). -/

namespace Sys2Proof

/-- What is stored at an address; an address that is not listed holds no value (R50). -/
def Memory.read : Memory → Nat → Option Byte
  | [], _ => none
  | (a, v) :: rest, k => if a = k then some v else Memory.read rest k

/-- Store a byte, keeping the addresses strictly rising. -/
def Memory.write : Memory → Nat → Byte → Memory
  | [], k, v => [(k, v)]
  | (a, w) :: rest, k, v =>
    if k < a then (k, v) :: (a, w) :: rest
    else if k = a then (k, v) :: rest
    else (a, w) :: Memory.write rest k v

/-- Every listed address is above `lo`, and the addresses rise strictly. -/
def Memory.risingFrom : Nat → Memory → Bool
  | _, [] => true
  | lo, (a, _) :: rest => decide (lo ≤ a) && Memory.risingFrom (a + 1) rest

/-- The canonical form: addresses strictly rising. (No entry can equal what an unlisted address reads as: that is no
value.) -/
def Memory.wf (m : Memory) : Bool := Memory.risingFrom 0 m

/-- The canonical form of data memory (R36): 512 words, each cell's byte holding a 4-bit word. -/
def Memory.ramWf (m : Memory) : Bool := m.wf && m.all fun c => decide (c.1 < 512) && decide (c.2.toNat < 16)

/-- The canonical form of a program memory of `size` bytes (R35). -/
def Memory.romWf (size : Nat) (m : Memory) : Bool := m.wf && m.all fun c => decide (c.1 < size)

namespace Machine

/-- `MemRead(a, 1)` (R13); `none` where nothing has been written since reset (R50). -/
def ramRead (m : Memory) (a : RamAddr) : Option Nibble := (m.read a.toNat).map loNibble

/-- `MemWrite(a, 1, v)` (R13). -/
def ramWrite (m : Memory) (a : RamAddr) (v : Nibble) : Memory := m.write a.toNat (v.setWidth 8)

/-- `RomRead(a)` (R13, R27): the byte, or why there is none. -/
def romRead (s : State) (a : RomAddr) : Except Fault Byte :=
  if a.toNat < s.conf.part.romSize then
    match s.rom.read a.toNat with
    | some b => .ok b
    | none => .error .romByteNotGiven
  else .error .pcOutOfBankOrRom

end Machine

end Sys2Proof
end

