-- ==== Sys2Proof/Machine/Ports.lean ====
section
/-! DEFINITION. The port space (R37, R38), the port primitives `PortRead` and `PortWrite` (R250, R251), the register
bank `CrRead` and `CrWrite` (R44), and the levels the output pins are driven to (R251). -/

namespace Sys2Proof.Machine

/-- The output latch of a port number: P0 to P6 by digit, PC is port 12 (R37, R251); the other port numbers have none. -/
def latchIndex (p : Nibble) : Option (Fin 8) :=
  match p.toNat with
  | 0 => some 0 | 1 => some 1 | 2 => some 2 | 3 => some 3 | 4 => some 4 | 5 => some 5 | 6 => some 6
  | 12 => some 7
  | _ => none

/-- `PORT_IN(p)`: the levels the environment presents on the port's pins now (R250). -/
def State.pinLevels (s : State) (p : Nibble) : Nibble :=
  match s.env.pins with
  | some levels => levels[p.toNat]
  | none => Config.portIn s.draws p s.inputModes

/-- The level of the P33/HOLD pin, bit 3 of port 3 (R250, R333). -/
def State.p33High (s : State) : Bool := (s.pinLevels 3).getLsbD 3

/-- `x` with bit `k` set to `v`. -/
def setBitTo {w : Nat} (x : BitVec w) (k : Nat) (v : Bool) : BitVec w :=
  if v then x ||| (1#w <<< k) else x &&& ~~~(1#w <<< k)

/-- What bit `b` of CR[n] reads as, by what `CR_MAP` says it stands for (R44). -/
def crBitValue (s : State) (n : Nibble) (b : Fin 4) : CrBit → Bool
  | .location => (s.cr[n.toNat]).getLsbD b.val
  | .fixed v => v
  | .edih k => s.edih.getLsbD k.val
  | .edil k => s.edil.getLsbD k.val
  | .irq k => s.irq.getLsbD k.val
  | .t0r k => s.t0r.getLsbD k.val
  | .t0c k => s.t0c.getLsbD k.val
  | .t0run => s.t0run
  | .t1ra k => s.t1ra.getLsbD k.val
  | .t1rb k => s.t1rb.getLsbD k.val
  | .t1c k => s.t1c.getLsbD k.val
  | .t1run => s.t1run
  | .sio k => s.sio.getLsbD k.val
  | .sio2 k => s.sio2.getLsbD k.val
  | .siorun => s.siorun
  | .latch j k => (s.pl[j]).getLsbD k.val
  | .comparator u => s.inputModes.comparators.getLsbD u.val
  | .threeValue q => s.inputModes.threeValue.getLsbD q.val

/-- What writing `v` to bit `b` of CR[n] does (R44). A request bit can be cleared so and never set: no instruction sets
an IRQ bit (R310). -/
def crBitStore (s : State) (n : Nibble) (b : Fin 4) (v : Bool) : CrBit → State
  | .location => { s with cr := s.cr.set n.toNat (setBitTo (s.cr[n.toNat]) b.val v) }
  | .fixed _ => s
  | .edih k => { s with edih := setBitTo s.edih k.val v }
  | .edil k => { s with edil := setBitTo s.edil k.val v }
  | .irq k => { s with irq := setBitTo s.irq k.val (s.irq.getLsbD k.val && v) }
  | .t0r k => { s with t0r := setBitTo s.t0r k.val v }
  | .t0c k => { s with t0c := setBitTo s.t0c k.val v }
  | .t0run => { s with t0run := v }
  | .t1ra k => { s with t1ra := setBitTo s.t1ra k.val v }
  | .t1rb k => { s with t1rb := setBitTo s.t1rb k.val v }
  | .t1c k => { s with t1c := setBitTo s.t1c k.val v }
  | .t1run => { s with t1run := v }
  | .sio k => { s with sio := setBitTo s.sio k.val v }
  | .sio2 k => { s with sio2 := setBitTo s.sio2 k.val v }
  | .siorun => { s with siorun := v }
  | .latch j k => { s with pl := s.pl.set j (setBitTo (s.pl[j]) k.val v) }
  | .comparator u =>
    { s with inputModes := { s.inputModes with comparators := setBitTo s.inputModes.comparators u.val v } }
  | .threeValue q =>
    { s with inputModes := { s.inputModes with threeValue := setBitTo s.inputModes.threeValue q.val v } }

/-- What an internal control register reads as, bit by bit. DESIGN CHOICE (notes/assumptions/21.md): which bits select
the comparators of PD and the three-value inputs of PE (R325, R326) is the map's, since the source gives no such
register. -/
def crValue (s : State) (n : Nibble) (bits : Vector CrBit 4) : Nibble :=
  (BitVec.ofBool (crBitValue s n 3 bits[3]) ++ BitVec.ofBool (crBitValue s n 2 bits[2]) ++
    BitVec.ofBool (crBitValue s n 1 bits[1]) ++ BitVec.ofBool (crBitValue s n 0 bits[0]) : BitVec 4)

/-- What writing an internal control register does, bit 0 first. DESIGN CHOICE (notes/assumptions/21.md): the order, seen
only where the map gives two bits of a register one meaning. -/
def crStore (s : State) (n v : Nibble) (bits : Vector CrBit 4) : State :=
  ([0, 1, 2, 3] : List (Fin 4)).foldl (fun u b => crBitStore u n b (v.getLsbD b.val) bits[b]) s

/-- The entry `CR_MAP` gives for CR[n]; `none` where no map is supplied (R44). -/
def State.crEntry (s : State) (n : Nibble) : Option CrEntry := s.conf.crMap.map fun m => m[n.toNat]

/-- `CrRead(n)` (R44): "limited to registers that can be read out". DESIGN CHOICE (notes/assumptions/21.md): the read
changes nothing; R68 and R250 say that whether it has a side effect is not in the source. -/
def State.crRead (s : State) (n : Nibble) : Option Nibble :=
  match s.crEntry n with
  | some entry => if entry.readable then some (crValue s n entry.bits) else none
  | none => none

/-- `CrWrite(n, v)` (R44). -/
def State.crWrite (s : State) (n v : Nibble) : Option State :=
  match s.crEntry n with
  | some entry => if entry.writable then some (crStore s n v entry.bits) else none
  | none => none

/-- `PortRead(p)` (R250): after BANK the register bank, otherwise `PORT_IN(p)`, which draws a free value. DESIGN CHOICE
(notes/assumptions/21.md): reading an internal control register passes the state on unchanged, where R68 leaves open
whether it has a side effect. -/
def withPort (s : State) (p : Nibble) (k : Nibble → State → Outcome) : Outcome :=
  if s.bnk then
    match s.crRead p with
    | some v => k v s
    | none => .fault .controlRegisterMapNotInSource
  else k (s.pinLevels p) { s with draws := s.draws + 1 }

/-- `PortWrite(p, v)` (R251): after BANK the register bank, otherwise the output latch. -/
def portWrite (s : State) (p v : Nibble) (k : State → Outcome) : Outcome :=
  if s.bnk then
    match s.crWrite p v with
    | some s' => k s'
    | none => .fault .controlRegisterMapNotInSource
  else
    match latchIndex p with
    | some j => k { s with pl := s.pl.set j v }
    | none => .fault .writeToInputOnlyOrAbsentPort

/-- `PortOld(p)` (R252): the old value of a port read-modify-write, by `PORT_RMW`. A port number without a latch has no
old latch value, and the write that would follow is the same fault (R251). -/
def withPortOld (s : State) (p : Nibble) (k : Nibble → State → Outcome) : Outcome :=
  if s.bnk then withPort s p k
  else
    match s.conf.portRmw with
    | .pins => withPort s p k
    | .latch =>
      match latchIndex p with
      | some j => k s.pl[j] s
      | none => .fault .writeToInputOnlyOrAbsentPort

/-- How the chip drives a pin (R251). -/
inductive PinDrive where
  /-- The n-channel transistor is on. -/
  | low
  /-- The transistor is off and the pull-up output circuit holds the pin high. -/
  | high
  /-- The transistor is off and the output is open drain. -/
  | floating
  /-- There is no output pin. -/
  | notDriven
  deriving DecidableEq, Repr

/-- The bits of each port that have an output pin: P3 bit 3 is the input-only P33/HOLD, PC has only bits 2 and 3 (R37). -/
def outputPins (p : Nibble) : Nibble :=
  match p.toNat with
  | 0 => 0xF | 1 => 0xF | 2 => 0xF | 3 => 0x7 | 4 => 0xF | 5 => 0xF | 6 => 0xF
  | 12 => 0xC
  | _ => 0x0

/-- What the chip drives bit `t` of port `p` to, from the latch and the output option (R8, R251). -/
def State.pinDrive (s : State) (p : Nibble) (t : BitVec 2) : PinDrive :=
  match latchIndex p with
  | none => .notDriven
  | some j =>
    if bitOf (outputPins p) t then
      if bitOf s.pl[j] t then
        if bitOf s.conf.options.pullUp[j] t then .high else .floating
      else .low
    else .notDriven

end Sys2Proof.Machine
end

