-- ==== Sys2Proof/Machine/Operands.lean ====
section
/-! DEFINITION. The operand forms: register pairs (R12, R22), data-memory operands M(HL), M(XY), M(i8), M2(HL) with
their data bank (R13, R65, R66), and the cells of the stack (R70 to R72). -/

namespace Sys2Proof.Machine

/-- `HL` = `DPH:DPL` (R12). -/
def State.hl (s : State) : Byte := (s.dph ++ s.dpl : Byte)

/-- `XY` = `DPX:DPY` (R12). -/
def State.xy (s : State) : Byte := (s.dpx ++ s.dpy : Byte)

/-- `EA` = `E:AC` (R12, R21). -/
def State.ea (s : State) : Byte := (s.e ++ s.ac : Byte)

/-- `E <- b[7:4]`, `AC <- b[3:0]` (R21). -/
def State.setEa (s : State) (b : Byte) : State := { s with e := hiNibble b, ac := loNibble b }

/-- The 8-bit address in the pair that `LA` and `XA` name (R94). -/
def State.pointer (s : State) : PtrReg → Byte
  | .hl => s.hl
  | .xy => s.xy

/-- The low pointer register of the pair: DPL or DPY (R22). -/
def State.lowPointer (s : State) : PtrReg → Nibble
  | .hl => s.dpl
  | .xy => s.dpy

/-- Write the low pointer register and set ZF from it (R177, R178): DPH and DPX never change. -/
def State.setLowPointerZ (s : State) (r : PtrReg) (v : Nibble) : State :=
  match r with
  | .hl => { s with dpl := v, zf := isZero v }
  | .xy => { s with dpy := v, zf := isZero v }

/-- The words `(hi, lo)` of the pair that `PUSH` names (R226). -/
def State.pairWords (s : State) : PairReg → Nibble × Nibble
  | .hl => (s.dph, s.dpl)
  | .xy => (s.dpx, s.dpy)
  | .ae => (s.e, s.ac)

/-- Load the pair that `POP` names (R227). -/
def State.setPair (s : State) (r : PairReg) (hi lo : Nibble) : State :=
  match r with
  | .hl => { s with dph := hi, dpl := lo }
  | .xy => { s with dpx := hi, dpy := lo }
  | .ae => { s with e := hi, ac := lo }

/-- `db`, the data bank bit of the executing instruction, by `DATA_BANK_RULE` (R66). -/
def State.dataBank (s : State) : Option Bool :=
  match s.conf.dataBankRule with
  | .byPrefix => some s.bnk
  | .none => if s.bnk then none else some false

/-- The data-memory address `db:a8` (R13, R36). -/
def State.dataAddr (s : State) (a8 : Byte) : Option RamAddr :=
  s.dataBank.map fun db => (BitVec.ofBool db ++ a8 : RamAddr)

/-- Continue with the address of a data-memory operand. -/
def withAddr (s : State) (a8 : Byte) (k : RamAddr → Outcome) : Outcome :=
  match s.dataAddr a8 with
  | some a => k a
  | none => .fault .bankPrefixOnMemoryOperand

/-- Continue with a RAM word that has been written (R50). -/
def withRam (s : State) (a : RamAddr) (k : Nibble → Outcome) : Outcome :=
  match ramRead s.ram a with
  | some v => k v
  | none => .fault .readOfUnwrittenState

/-- Continue with the address of a data-memory operand and the word there. -/
def withWord (s : State) (a8 : Byte) (k : RamAddr → Nibble → Outcome) : Outcome :=
  withAddr s a8 fun a => withRam s a (k a)

/-- `HL+1` = `DPH:(DPL | 1)` (R65). -/
def State.hlOdd (s : State) : Byte := (s.dph ++ (s.dpl ||| 1) : Byte)

/-- Continue with the two addresses of `M2(HL)`, which needs an even `HL` (R65). -/
def withAddr2 (s : State) (k : (lo hi : RamAddr) → Outcome) : Outcome :=
  if s.dpl.getLsbD 0 then .fault .m2OddAddress
  else withAddr s s.hl fun lo => withAddr s s.hlOdd fun hi => k lo hi

/-- `MemWrite` on the state. -/
def State.writeRam (s : State) (a : RamAddr) (v : Nibble) : State := { s with ram := ramWrite s.ram a v }

/-- `SP <- SP + d` modulo 256 (R24). -/
def State.raiseSp (s : State) (d : Byte) : State := { s with sp := s.sp + d }

/-- `sa(k)` = `STACK_BANK:((SP + k) mod 256)` (R70, R220). -/
def State.stackAddr (s : State) (k : Nat) : RamAddr :=
  (BitVec.ofBool s.conf.stackBank ++ (s.sp + BitVec.ofNat 8 k) : RamAddr)

end Sys2Proof.Machine
end

