-- ==== Sys2Proof/Machine/Ops.lean ====
section
/-! DEFINITION. The end of an instruction step (R26, R112), control transfers (R220, R235), the stack (R70 to R72),
taking an interrupt (R304 to R309) and returning from one (R230, R231). -/

namespace Sys2Proof.Machine

/-! ### The program counter -/

/-- `NPC` = `A + L` (R26). -/
def State.npc (s : State) (len : Nat) : RomAddr := s.pc + BitVec.ofNat 13 len

/-- NPC may be used: its PC12 is that of the instruction's address (R27), and it is below ROM_SIZE (R354, D3). -/
def State.npcUsable (s : State) (len : Nat) : Bool :=
  (s.npc len).getLsbD 12 == s.pc.getLsbD 12 && decide ((s.npc len).toNat < s.conf.part.romSize)

/-- PC12 to PC8 of NPC are those of the instruction's address, so a transfer within the page is defined (R235). -/
def State.npcInPage (s : State) (len : Nat) : Bool := (s.npc len).extractLsb' 8 5 == s.pc.extractLsb' 8 5

/-- The address `low` in the page of NPC (R224, R235). -/
def State.inPage (s : State) (len : Nat) (low : Byte) : RomAddr := ((s.npc len).extractLsb' 8 5 ++ low : RomAddr)

/-- Steps (5) and (6) of R112: the next PC, and the prefix states of the instruction that follows. -/
def State.retire (s : State) (target : RomAddr) (bnk vsk : Bool) : State :=
  { s with pc := target, bnk := bnk, vsk := vsk }

/-- End an instruction that does not write PC: `PC <- NPC` (R26), with the prefix states it leaves (R112). DESIGN CHOICE
(notes/assumptions/43.md): NPC is looked at last, so that where an operand is Undefined too the step stops with the
operand's reason. -/
def advanceWith (len : Nat) (bnk vsk : Bool) (s : State) : Outcome :=
  if s.npcUsable len then .next (s.retire (s.npc len) bnk vsk) else .fault .pcOutOfBankOrRom

/-- End an instruction that does not write PC and is neither BANK nor LAI (R112). -/
def advance (len : Nat) (s : State) : Outcome := advanceWith len false false s

/-- End an instruction that writes PC (R112). -/
def jumpTo (target : RomAddr) (s : State) : Outcome := .next (s.retire target false false)

/-- A transfer within the page of NPC (R224); Undefined where the instruction ends its page. -/
def jumpInPage (len : Nat) (low : Byte) (s : State) : Outcome :=
  if s.npcInPage len then jumpTo (s.inPage len low) s else .fault .pageBoundaryTransfer

/-- `Branch(cond)` of a two-byte branch (R235): taken, to P7..P0 in the page of NPC; not taken, `PC <- NPC`. -/
def branch (cond : Bool) (low : Byte) (s : State) : Outcome :=
  if cond then jumpInPage 2 low s else advance 2 s

/-- The ROM byte `RTBL` and `RTBLP` read (R184): the page of NPC, with E:AC as the low byte. -/
def withTableByte (s : State) (k : Byte → Outcome) : Outcome :=
  if s.npcInPage 1 then
    match romRead s (s.inPage 1 s.ea) with
    | .ok b => k b
    | .error f => .fault f
  else .fault .pageBoundaryTransfer

/-! ### The stack -/

/-- `FRAME`: the 16-bit value `CF:ZF:0:PC[12:0]` (R72). -/
def frameWord (cf zf : Bool) (pc : RomAddr) : BitVec 16 := (BitVec.ofBool cf ++ BitVec.ofBool zf ++ 0#1 ++ pc : BitVec 16)

/-- PC from a frame; bit 13 is ignored (R72, R230). -/
def framePc (w : BitVec 16) : RomAddr := w.extractLsb' 0 13

/-- CF from a frame (R231). -/
def frameCf (w : BitVec 16) : Bool := w.getLsbD 15

/-- ZF from a frame (R231). -/
def frameZf (w : BitVec 16) : Bool := w.getLsbD 14

/-- Store a frame at M4(SP), low word first, then `SP <- SP - 4` (R70, R72). -/
def State.pushFrame (s : State) (w : BitVec 16) : State :=
  let m0 := ramWrite s.ram (s.stackAddr 0) (w.extractLsb' 0 4)
  let m1 := ramWrite m0 (s.stackAddr 1) (w.extractLsb' 4 4)
  let m2 := ramWrite m1 (s.stackAddr 2) (w.extractLsb' 8 4)
  let m3 := ramWrite m2 (s.stackAddr 3) (w.extractLsb' 12 4)
  { s with ram := m3, sp := s.sp - 4 }

/-- The frame at M4(SP) of a state whose SP has been raised already; `none` where a word has no value (R50, R70). -/
def State.frameAtSp (s : State) : Option (BitVec 16) :=
  match ramRead s.ram (s.stackAddr 0), ramRead s.ram (s.stackAddr 1),
    ramRead s.ram (s.stackAddr 2), ramRead s.ram (s.stackAddr 3) with
  | some w0, some w1, some w2, some w3 => some (w3 ++ w2 ++ w1 ++ w0 : BitVec 16)
  | _, _, _, _ => none

/-- `SP <- SP + 4`, then continue with the frame at M4(SP) (R230, R231). -/
def withPoppedFrame (s : State) (k : BitVec 16 → State → Outcome) : Outcome :=
  match (s.raiseSp 4).frameAtSp with
  | some w => k w (s.raiseSp 4)
  | none => .fault .readOfUnwrittenState

/-- Call a subroutine (R222, R223): store (CF, ZF, NPC), subtract 4 from SP, go to the target. -/
def call (len : Nat) (target : RomAddr) (s : State) : Outcome :=
  if s.npcUsable len then jumpTo target (s.pushFrame (frameWord s.cf s.zf (s.npc len))) else .fault .pcOutOfBankOrRom

/-! ### Taking an interrupt and returning from one -/

/-- The enable flag of source k: the bit of EDIH:EDIL that `IRQ_ENABLE_MAP` assigns (R33, R304). -/
def State.irqEnabled (s : State) (k : Fin 8) : Bool :=
  (s.edih ++ s.edil : BitVec 8).getLsbD (s.conf.irqEnableMap[k]).val

/-- Interrupt k qualifies: MSE, its enable flag and its request are all 1 (R304). -/
def State.irqQualifies (s : State) (k : Fin 8) : Bool :=
  s.mse && (s.irqEnabled k && s.irq.getLsbD k.val)

/-- Of two sources, the one `IRQ_PRIORITY` prefers (R304). -/
def irqBetter (c : Conf) (j k : Fin 8) : Fin 8 :=
  if c.irqRank[k].val < c.irqRank[j].val then k else j

/-- The qualifying interrupt that `IRQ_PRIORITY` picks, if any (R304). With MSE = 0 there is none (R305). -/
def State.chooseIrq (s : State) : Option (Fin 8) :=
  if s.mse then
    ([0, 1, 2, 3, 4, 5, 6, 7] : List (Fin 8)).foldl (fun best k =>
      if s.irqQualifies k then
        match best with
        | none => some k
        | some j => some (irqBetter s.conf j k)
      else best) none
  else none

/-- `IRQ_ENTRY_EFFECTS(k)` (R308). -/
def State.entryEffects (s : State) (k : Fin 8) : State :=
  let fx := s.conf.entryEffects
  let kept : BitVec 8 := (s.edih ++ s.edil : BitVec 8) &&& ~~~((1 : BitVec 8) <<< (s.conf.irqEnableMap[k]).val)
  { s with
    irq := if fx.clearsRequest then s.irq &&& ~~~((1 : BitVec 8) <<< k.val) else s.irq
    mse := if fx.clearsMaster then false else s.mse
    edih := if fx.clearsEnable then hiNibble kept else s.edih
    edil := if fx.clearsEnable then loNibble kept else s.edil }

/-- Take interrupt k at a boundary with PC = A (R307): store the frame `CF:ZF:0:A` as CAL does, subtract 4 from SP, go
to VEC[k], then the entry effects. AC, E, the pointers, the user flags, CF and ZF do not change. -/
def State.takeInterrupt (s : State) (k : Fin 8) : State :=
  let s1 := s.pushFrame (frameWord s.cf s.zf s.pc)
  let s2 : State := { s1 with pc := s.conf.vec[k] }
  s2.entryEffects k

/-- Return from a subroutine or handler without the flags (R230). -/
def returnPlain (s : State) : Outcome := withPoppedFrame s fun w s' => jumpTo (framePc w) s'

/-- Return from a handler: PC, CF and ZF from the frame (R231); MSE only if `IRQ_ENTRY_EFFECTS` says so (R308). -/
def returnFromInterrupt (s : State) : Outcome :=
  withPoppedFrame s fun w s' =>
    jumpTo (framePc w)
      { s' with cf := frameCf w, zf := frameZf w, mse := s'.conf.entryEffects.rtiSetsMaster || s'.mse }

end Sys2Proof.Machine
end

