-- ==== Sys2Proof/Machine/Boundary.lean ====
section
/-! DEFINITION. What happens at an instruction boundary other than an instruction: the peripherals act (R80, R320 to
R323), requests arrive (R311), reset (R340, R341), HALT mode and its release (R331), HOLD mode and its release (R334,
R335), and the choice whether an interrupt is taken (R304, R309). -/

namespace Sys2Proof.Machine

/-! ### The other agents -/

/-- The environment's events, once they have been seen at a boundary; the pin levels stay as presented. -/
def Env.afterBoundary (v : Env) : Env :=
  { v with resLow := false, watchdogExpired := false, irqEvents := 0, haltRelease := false }

/-- The requests raised since the last boundary become pending (R45, R302, R311). -/
def State.latchRequests (s : State) : State :=
  { s with irq := s.irq ||| s.env.irqEvents, env := s.env.afterBoundary }

/-- The serial registers after a boundary: changed only once a transfer has been started (R292, R323). -/
def State.serialAfter (s : State) : SerialState :=
  let now : SerialState := { sio := s.sio, sio2 := s.sio2, running := s.siorun }
  if s.siorun then Config.sioModel s.draws now else now

/-- The peripherals' step at a boundary in RUN or HALT (R80, R320 to R323): each counter takes the value its open model
gives; nothing else of the machine changes but the draw counter. -/
def State.peripherals (s : State) : State :=
  { s with
    t0c := Config.timer0Model s.draws s.t0run s.t0r s.t0c s.prescaler
    t1c := Config.timer1Model s.draws s.t1run s.t1ra s.t1rb s.t1c s.prescaler
    prescaler := Config.prescalerModel s.draws s.prescaler
    sio := s.serialAfter.sio
    sio2 := s.serialAfter.sio2
    siorun := s.serialAfter.running
    draws := s.draws + 1 }

/-- What the agents and the environment do at a boundary in RUN or HALT: the peripherals act and the requests that have
been raised become pending (R80, R311). -/
def State.atBoundary (s : State) : State := s.peripherals.latchRequests

/-! ### Reset -/

/-- A reset is taken at this boundary (R340): RES low while P33/HOLD is high, or the watchdog timer where the option is
present (it stands still in HOLD mode, R330). -/
def State.resetOccurs (s : State) : Bool :=
  (s.env.resLow && s.p33High) || (s.env.watchdogExpired && (s.conf.options.watchdog && s.mode != .hold))

/-- The state after a reset of a running machine (R341, R343): the state of `State.resetOf` for the same chip, with the
same mask ROM and the same pins; RAM holds no value. -/
def State.afterReset (s : State) : State :=
  { State.resetOf s.conf with rom := s.rom, env := s.env.afterBoundary, draws := s.draws + 1 }

/-! ### Whether an interrupt is taken -/

/-- The choice at a boundary (step (1) of R112). -/
inductive IrqChoice where
  /-- No interrupt is taken. -/
  | none
  /-- Interrupt k is taken. -/
  | take (k : Fin 8)
  /-- `Undefined(interrupt_in_prefix_window)` (R309). -/
  | undefined
  deriving DecidableEq, Repr

/-- Step (1) of R112: a qualifying interrupt is taken at the first boundary (R304), except where BNK or VSK is 1, where
`IRQ_WINDOW_RULE` decides (R309). -/
def State.irqChoice (s : State) : IrqChoice :=
  match s.chooseIrq with
  | none => .none
  | some k =>
    if s.bnk || s.vsk then
      match s.conf.irqWindow with
      | .undefined => .undefined
      | .defer => .none
    else .take k

/-! ### The standby modes -/

/-- One boundary in HALT mode (R331): a qualifying interrupt ends the mode and is taken; else the HALT-release event
ends it and execution goes on after the `HALT`; else the mode goes on. `release` is the event of this boundary. -/
def haltStep (release : Bool) (s : State) : Outcome :=
  match s.irqChoice with
  | .undefined => .fault .interruptInPrefixWindow
  | .take k => .next { s.takeInterrupt k with mode := .run }
  | .none => .next { s with mode := if release then .run else s.mode }

/-- HOLD mode is cleared (R335): timer 0's counter is loaded with FFCH, the mode is RUN at the instruction after the
`HOLD`, and what R335 leaves unconstrained takes a free value. CPU registers, flags, RAM and latches are kept. -/
def State.releaseHold (s : State) : State :=
  let x := Config.afterHold s.draws
  { s with
    mode := .run
    t0c := timer0ResetValue
    t0r := x.t0r, t0run := x.t0run, t1rb := x.t1rb, t1c := x.t1c, t1run := x.t1run, prescaler := x.prescaler
    sio := x.sio, sio2 := x.sio2, siorun := x.siorun, inputModes := x.inputModes, cr := x.cr
    draws := s.draws + 1 }

/-- One boundary in HOLD mode (R334): P33/HOLD high clears it; while it is low the peripherals stand still and requests
stay pending. -/
def holdStep (s : State) : Outcome :=
  .next (if s.p33High then s.latchRequests.releaseHold
    else { s.latchRequests with draws := s.draws + 1 })

end Sys2Proof.Machine
end

