-- ==== Sys2Proof/Machine/Accumulator.lean ====
section
/-! DEFINITION. Accumulator manipulation instructions (40_accumulator.md, R120 to R133). -/

namespace Sys2Proof.Machine

/-- Load AC with an immediate under the vertical skip (R41, R171): skipped directly after a `LAI` or `CLA`. -/
def loadImmediateSkipping (i : Nibble) (s : State) : Outcome :=
  advanceWith 1 false s.conf.vskip (if s.vsk && s.conf.vskip then s else s.setAcZ i)

/-- `CLA` (R121): `LAI 0`, the vertical skip included. -/
def execCla (s : State) : Outcome := loadImmediateSkipping 0 s

/-- `DAA` (R122): AC + 6; CF unchanged. -/
def execDaa (s : State) : Outcome := advance 2 (s.setAcZ (add4 s.ac 6 false).1)

/-- `DAS` (R123): AC + 10; CF unchanged. -/
def execDas (s : State) : Outcome := advance 2 (s.setAcZ (add4 s.ac 10 false).1)

/-- `CLC` (R124). -/
def execClc (s : State) : Outcome := advance 1 { s with cf := false }

/-- `STC` (R125). -/
def execStc (s : State) : Outcome := advance 1 { s with cf := true }

/-- `CMA` (R126). -/
def execCma (s : State) : Outcome := advance 1 (s.setAcZ (~~~s.ac))

/-- `IA` (R127). -/
def execIa (s : State) : Outcome := advance 1 (s.setAcCZ (increment s.ac))

/-- `DA` (R128). -/
def execDa (s : State) : Outcome := advance 1 (s.setAcCZ (decrement s.conf s.ac))

/-- `RAR` (R129): rotate CF:AC right; ZF is not written. -/
def execRar (s : State) : Outcome :=
  advance 1 { s with ac := (BitVec.ofBool s.cf ++ s.ac.extractLsb' 1 3 : Nibble), cf := s.ac.getLsbD 0 }

/-- `RAL` (R130): rotate CF:AC left. -/
def execRal (s : State) : Outcome :=
  advance 1 (s.setAcCZ ((s.ac.extractLsb' 0 3 ++ BitVec.ofBool s.cf : Nibble), s.ac.getLsbD 3))

/-- `TAE` (R131). -/
def execTae (s : State) : Outcome := advance 1 { s with e := s.ac }

/-- `TEA` (R132). -/
def execTea (s : State) : Outcome := advance 1 (s.setAcZ s.e)

/-- `XAE` (R133). -/
def execXae (s : State) : Outcome := advance 1 { s with ac := s.e, e := s.ac }

end Sys2Proof.Machine
end

