-- ==== Sys2Proof/Machine/Arithmetic.lean ====
section
/-! DEFINITION. Arithmetic, logic and comparison instructions (42_arithmetic_logic_compare.md, R150 to R165). -/

namespace Sys2Proof.Machine

/-- `AC <- f AC M`, ZF from the result (R157 to R159). -/
def logicToAc (f : Nibble → Nibble → Nibble) (s : State) : Outcome :=
  withWord s s.hl fun _ m => advance 1 (s.setAcZ (f s.ac m))

/-- `M <- f AC M`, ZF from the word written (R160, R161). -/
def logicToMem (f : Nibble → Nibble → Nibble) (s : State) : Outcome :=
  withWord s s.hl fun a m => advance 1 ((s.writeRam a (f s.ac m)).setZ (isZero (f s.ac m)))

/-- `AC <- AC + M + c`, CF and ZF from the sum (R152 to R154). -/
def addToAc (len : Nat) (a8 : Byte) (c : Bool) (s : State) : Outcome :=
  withWord s a8 fun _ m => advance len (s.setAcCZ (add4 s.ac m c))

/-- `AD` (R152). -/
def execAd (s : State) : Outcome := addToAc 1 s.hl false s

/-- `ADDR i8` (R153). -/
def execAddr (i8 : Byte) (s : State) : Outcome := addToAc 2 i8 false s

/-- `ADC` (R154). -/
def execAdc (s : State) : Outcome := addToAc 1 s.hl s.cf s

/-- `ADI i4` (R155): CF is neither read nor written. -/
def execAdi (i : Nibble) (s : State) : Outcome := advance 2 (s.setAcZ (add4 s.ac i false).1)

/-- `SUBC` (R156): memory minus accumulator, to the accumulator. -/
def execSubc (s : State) : Outcome :=
  withWord s s.hl fun _ m => advance 1 (s.setAcCZ (subtractWithCarry s.conf m s.ac s.cf))

/-- `ANDA` (R157). -/
def execAnda (s : State) : Outcome := logicToAc (· &&& ·) s

/-- `ORA` (R158). -/
def execOra (s : State) : Outcome := logicToAc (· ||| ·) s

/-- `EXL` (R159). -/
def execExl (s : State) : Outcome := logicToAc (· ^^^ ·) s

/-- `ANDM` (R160). -/
def execAndm (s : State) : Outcome := logicToMem (· &&& ·) s

/-- `ORM` (R161). -/
def execOrm (s : State) : Outcome := logicToMem (· ||| ·) s

/-- `CM` (R162). -/
def execCm (s : State) : Outcome := withWord s s.hl fun _ m => advance 1 (s.setCZ (compareSum m s.ac))

/-- `CI i4` (R163). -/
def execCi (i : Nibble) (s : State) : Outcome := advance 2 (s.setCZ (compareSum i s.ac))

/-- `CLI i4` (R164): ZF only. -/
def execCli (i : Nibble) (s : State) : Outcome := advance 2 (s.setZ (s.dpl == i))

/-- `CMB t2` (R165): ZF only. -/
def execCmb (t : BitVec 2) (s : State) : Outcome :=
  withWord s s.hl fun _ m => advance 2 (s.setZ (bitOf s.ac t == bitOf m t))

end Sys2Proof.Machine
end

