-- ==== Sys2Proof/Machine/Branch.lean ====
section
/-! DEFINITION. Branch instructions (47_branch.md, R235 to R247). -/

namespace Sys2Proof.Machine

/-- `BAt2 addr` (R236). -/
def execBa (t : BitVec 2) (p : Byte) (s : State) : Outcome := branch (bitOf s.ac t) p s

/-- `BNAt2 addr` (R237). -/
def execBna (t : BitVec 2) (p : Byte) (s : State) : Outcome := branch (!bitOf s.ac t) p s

/-- `BMt2 addr` (R238). -/
def execBm (t : BitVec 2) (p : Byte) (s : State) : Outcome := withWord s s.hl fun _ m => branch (bitOf m t) p s

/-- `BNMt2 addr` (R239). -/
def execBnm (t : BitVec 2) (p : Byte) (s : State) : Outcome := withWord s s.hl fun _ m => branch (!bitOf m t) p s

/-- `BPt2 addr` (R240): port DPL, or after BANK the internal control register. -/
def execBp (t : BitVec 2) (p : Byte) (s : State) : Outcome := withPort s s.dpl fun v s1 => branch (bitOf v t) p s1

/-- `BNPt2 addr` (R241). -/
def execBnp (t : BitVec 2) (p : Byte) (s : State) : Outcome := withPort s s.dpl fun v s1 => branch (!bitOf v t) p s1

/-- `BC addr` (R242). -/
def execBc (p : Byte) (s : State) : Outcome := branch s.cf p s

/-- `BNC addr` (R243). -/
def execBnc (p : Byte) (s : State) : Outcome := branch (!s.cf) p s

/-- `BZ addr` (R244). -/
def execBz (p : Byte) (s : State) : Outcome := branch s.zf p s

/-- `BNZ addr` (R245). -/
def execBnz (p : Byte) (s : State) : Outcome := branch (!s.zf) p s

/-- `BFn4 addr` (R246). -/
def execBf (n : Nibble) (p : Byte) (s : State) : Outcome := branch s.uf[n.toNat] p s

/-- `BNFn4 addr` (R247). -/
def execBnf (n : Nibble) (p : Byte) (s : State) : Outcome := branch (!s.uf[n.toNat]) p s

end Sys2Proof.Machine
end

