-- ==== Sys2Proof/Machine/DataPointer.lean ====
section
/-! DEFINITION. Data pointer manipulation instructions (44_data_pointer.md, R190 to R211). -/

namespace Sys2Proof.Machine

/-- `LDZ i4` (R191). -/
def execLdz (i : Nibble) (s : State) : Outcome := advance 1 { s with dph := 0, dpl := i }

/-- `LHI i4` (R192). -/
def execLhi (i : Nibble) (s : State) : Outcome := advance 2 { s with dph := i }

/-- `LLI i4` (R193). -/
def execLli (i : Nibble) (s : State) : Outcome := advance 2 { s with dpl := i }

/-- `LHLI i8` (R194). -/
def execLhli (i8 : Byte) (s : State) : Outcome := advance 2 { s with dph := hiNibble i8, dpl := loNibble i8 }

/-- `LXYI i8` (R195). -/
def execLxyi (i8 : Byte) (s : State) : Outcome := advance 2 { s with dpx := hiNibble i8, dpy := loNibble i8 }

/-- `IL` (R196): ZF only, no carry into DPH. -/
def execIl (s : State) : Outcome := advance 1 (s.setLowPointerZ .hl (s.dpl + 1))

/-- `DL` (R197). -/
def execDl (s : State) : Outcome := advance 1 (s.setLowPointerZ .hl (s.dpl + 15))

/-- `IY` (R198). -/
def execIy (s : State) : Outcome := advance 1 (s.setLowPointerZ .xy (s.dpy + 1))

/-- `DY` (R199). -/
def execDy (s : State) : Outcome := advance 1 (s.setLowPointerZ .xy (s.dpy + 15))

/-- `TAH` (R200). -/
def execTah (s : State) : Outcome := advance 2 { s with dph := s.ac }

/-- `THA` (R201). -/
def execTha (s : State) : Outcome := advance 2 (s.setAcZ s.dph)

/-- `XAH` (R202). -/
def execXah (s : State) : Outcome := advance 1 { s with ac := s.dph, dph := s.ac }

/-- `TAL` (R203). -/
def execTal (s : State) : Outcome := advance 2 { s with dpl := s.ac }

/-- `TLA` (R204). -/
def execTla (s : State) : Outcome := advance 2 (s.setAcZ s.dpl)

/-- `XAL` (R205). -/
def execXal (s : State) : Outcome := advance 1 { s with ac := s.dpl, dpl := s.ac }

/-- `TAX` (R206). -/
def execTax (s : State) : Outcome := advance 2 { s with dpx := s.ac }

/-- `TXA` (R207). -/
def execTxa (s : State) : Outcome := advance 2 (s.setAcZ s.dpx)

/-- `XAX` (R208). -/
def execXax (s : State) : Outcome := advance 1 { s with ac := s.dpx, dpx := s.ac }

/-- `TAY` (R209). -/
def execTay (s : State) : Outcome := advance 2 { s with dpy := s.ac }

/-- `TYA` (R210). -/
def execTya (s : State) : Outcome := advance 2 (s.setAcZ s.dpy)

/-- `XAY` (R211). -/
def execXay (s : State) : Outcome := advance 1 { s with ac := s.dpy, dpy := s.ac }

end Sys2Proof.Machine
end

