-- ==== Sys2Proof/Machine/Jump.lean ====
section
/-! DEFINITION. Jump and subroutine instructions (46_jump_subroutine.md, R220 to R231). -/

namespace Sys2Proof.Machine

/-- `JMP addr` (R221): in the current bank, or after BANK in the other; Undefined where NPC is in another bank than the
instruction or reaches ROM_SIZE (R221, D3; notes/assumptions/30.md). -/
def execJmp (a : BitVec 12) (s : State) : Outcome :=
  if s.npcUsable 2 then jumpTo (BitVec.ofBool (s.pc.getLsbD 12 ^^ s.bnk) ++ a : RomAddr) s
  else .fault .pcOutOfBankOrRom

/-- `JPEA` (R224). -/
def execJpea (s : State) : Outcome := jumpInPage 1 s.ea s

/-- `CAL addr` (R222): PC12, PC11 become 0. -/
def execCal (a : BitVec 11) (s : State) : Outcome := call 2 (0#2 ++ a : RomAddr) s

/-- `CZP addr` (R223): the entry at 4 times the field, on page 0 of bank 0. -/
def execCzp (p : Nibble) (s : State) : Outcome := call 1 (0#7 ++ p ++ 0#2 : RomAddr) s

/-- `BANK` (R225): only the prefix state. -/
def execBank (s : State) : Outcome := advanceWith 1 true false s

/-- `PUSH reg` (R226): low word at SP, high word at SP+1, then `SP <- SP - 2`. -/
def execPush (r : PairReg) (s : State) : Outcome :=
  let w := s.pairWords r
  let s1 := (s.writeRam (s.stackAddr 0) w.2).writeRam (s.stackAddr 1) w.1
  advance 2 { s1 with sp := s.sp - 2 }

/-- `POP reg` (R227): `SP <- SP + 2`, then the two words; no flag. -/
def execPop (r : PairReg) (s : State) : Outcome :=
  let s1 := s.raiseSp 2
  withRam s1 (s1.stackAddr 0) fun lo => withRam s1 (s1.stackAddr 1) fun hi => advance 2 (s1.setPair r hi lo)

/-- `RT` (R230). -/
def execRt (s : State) : Outcome := returnPlain s

/-- `RTI` (R231). -/
def execRti (s : State) : Outcome := returnFromInterrupt s

end Sys2Proof.Machine
end

