-- ==== Sys2Proof/Machine/LoadStore.lean ====
section
/-! DEFINITION. Load and store instructions (43_load_store.md, R170 to R185). -/

namespace Sys2Proof.Machine

/-- Exchange AC with the word at an 8-bit address (R179, R182), then go on from the state `f` makes of the result. -/
def exchangeWord (len : Nat) (a8 : Byte) (f : State → State) (s : State) : Outcome :=
  withWord s a8 fun a m => advance len (f { s.writeRam a s.ac with ac := m })

/-- Step the low pointer register of the pair by `d` modulo 16, ZF from it (R177, R178, R180, R181). -/
def State.stepPointer (s : State) (r : PtrReg) (d : Nibble) : State := s.setLowPointerZ r (s.lowPointer r + d)

/-- `LAI i4` (R171). -/
def execLai (i : Nibble) (s : State) : Outcome := loadImmediateSkipping i s

/-- `LAE` (R172): no flag. -/
def execLae (s : State) : Outcome :=
  withAddr2 s fun lo hi => withRam s lo fun v => withRam s hi fun w => advance 1 { s with ac := v, e := w }

/-- `LADR i8` (R173). -/
def execLadr (i8 : Byte) (s : State) : Outcome := withWord s i8 fun _ m => advance 2 (s.setAcZ m)

/-- `S` (R174). -/
def execS (s : State) : Outcome := withAddr s s.hl fun a => advance 1 (s.writeRam a s.ac)

/-- `SAE` (R175). -/
def execSae (s : State) : Outcome :=
  withAddr2 s fun lo hi => advance 1 ((s.writeRam lo s.ac).writeRam hi s.e)

/-- `LA reg` (R176). -/
def execLa (r : PtrReg) (s : State) : Outcome := withWord s (s.pointer r) fun _ m => advance 1 (s.setAcZ m)

/-- `LA reg, I` (R177): ZF from the pointer, not from AC. -/
def execLaI (r : PtrReg) (s : State) : Outcome :=
  withWord s (s.pointer r) fun _ m => advance 1 (State.stepPointer { s with ac := m } r 1)

/-- `LA reg, D` (R178). -/
def execLaD (r : PtrReg) (s : State) : Outcome :=
  withWord s (s.pointer r) fun _ m => advance 1 (State.stepPointer { s with ac := m } r 15)

/-- `XA reg` (R179): no flag. -/
def execXa (r : PtrReg) (s : State) : Outcome := exchangeWord 1 (s.pointer r) id s

/-- `XA reg, I` (R180). -/
def execXaI (r : PtrReg) (s : State) : Outcome := exchangeWord 1 (s.pointer r) (·.stepPointer r 1) s

/-- `XA reg, D` (R181). -/
def execXaD (r : PtrReg) (s : State) : Outcome := exchangeWord 1 (s.pointer r) (·.stepPointer r 15) s

/-- `XADR i8` (R182). -/
def execXadr (i8 : Byte) (s : State) : Outcome := exchangeWord 2 i8 id s

/-- `LEAI i8` (R183): no flag. -/
def execLeai (i8 : Byte) (s : State) : Outcome := advance 2 (s.setEa i8)

/-- `RTBL` (R184). -/
def execRtbl (s : State) : Outcome := withTableByte s fun b => advance 1 (s.setEa b)

/-- `RTBLP` (R185): high word to port 4, low word to port 5. -/
def execRtblp (s : State) : Outcome :=
  withTableByte s fun b =>
    portWrite s 4 (hiNibble b) fun s1 => portWrite s1 5 (loNibble b) fun s2 => advance 1 s2

end Sys2Proof.Machine
end

