-- ==== Sys2Proof/Machine/MemoryManipulation.lean ====
section
/-! DEFINITION. Memory manipulation instructions (41_memory_manipulation.md, R140 to R146). -/

namespace Sys2Proof.Machine

/-- Read the word at an 8-bit address, write `f` of it back and set CF and ZF from it (R140, R141). -/
def modifyWordCZ (len : Nat) (a8 : Byte) (f : Nibble → Nibble × Bool) (s : State) : Outcome :=
  withWord s a8 fun a m => advance len ((s.writeRam a (f m).1).setCZ (f m))

/-- `IM` (R141). -/
def execIm (s : State) : Outcome := modifyWordCZ 1 s.hl increment s

/-- `DM` (R142). -/
def execDm (s : State) : Outcome := modifyWordCZ 1 s.hl (decrement s.conf) s

/-- `IMDR i8` (R143). -/
def execImdr (i8 : Byte) (s : State) : Outcome := modifyWordCZ 2 i8 increment s

/-- `DMDR i8` (R144). -/
def execDmdr (i8 : Byte) (s : State) : Outcome := modifyWordCZ 2 i8 (decrement s.conf) s

/-- `SMB t2` (R145): no flag. -/
def execSmb (t : BitVec 2) (s : State) : Outcome :=
  withWord s s.hl fun a m => advance 1 (s.writeRam a (setBit m t))

/-- `RMB t2` (R146): ZF from the whole new word. -/
def execRmb (t : BitVec 2) (s : State) : Outcome :=
  withWord s s.hl fun a m => advance 1 ((s.writeRam a (clearBit m t)).setZ (isZero (clearBit m t)))

end Sys2Proof.Machine
end

