-- ==== Sys2Proof/Machine/PortIo.lean ====
section
/-! DEFINITION. I/O instructions (48_io.md, R252 to R265). -/

namespace Sys2Proof.Machine

/-- Input a port to AC, ZF from the value (R253, R254, R256). -/
def inputToAc (len : Nat) (p : Nibble) (s : State) : Outcome := withPort s p fun v s1 => advance len (s1.setAcZ v)

/-- Read-modify-write of a port, with ZF from the value written (R263 to R265). -/
def modifyPortZ (len : Nat) (p : Nibble) (f : Nibble → Nibble) (s : State) : Outcome :=
  withPortOld s p fun old s1 => portWrite s1 p (f old) fun s2 => advance len (s2.setZ (isZero (f old)))

/-- `IP0` (R253). -/
def execIp0 (s : State) : Outcome := inputToAc 1 0 s

/-- `IP` (R254). -/
def execIp (s : State) : Outcome := inputToAc 1 s.dpl s

/-- `IPM` (R255): DPL is both the port number and the low word of the address; no flag. -/
def execIpm (s : State) : Outcome :=
  withPort s s.dpl fun v s1 => withAddr s1 s1.hl fun a => advance 1 (s1.writeRam a v)

/-- `IPDR i4` (R256). -/
def execIpdr (i : Nibble) (s : State) : Outcome := inputToAc 2 i s

/-- `IP45` (R257): port 4 first; no flag. -/
def execIp45 (s : State) : Outcome :=
  withPort s 4 fun v s1 => withPort s1 5 fun w s2 => advance 2 { s2 with e := v, ac := w }

/-- `OP` (R258). -/
def execOp (s : State) : Outcome := portWrite s s.dpl s.ac fun s1 => advance 1 s1

/-- `OPM` (R259). -/
def execOpm (s : State) : Outcome := withWord s s.hl fun _ m => portWrite s s.dpl m fun s1 => advance 1 s1

/-- `OPDR i4` (R260). -/
def execOpdr (i : Nibble) (s : State) : Outcome := portWrite s i s.ac fun s1 => advance 2 s1

/-- `OP45` (R261): port 4 first. -/
def execOp45 (s : State) : Outcome := portWrite s 4 s.e fun s1 => portWrite s1 5 s.ac fun s2 => advance 2 s2

/-- `SPB t2` (R262): no flag. -/
def execSpb (t : BitVec 2) (s : State) : Outcome :=
  withPortOld s s.dpl fun old s1 => portWrite s1 s.dpl (setBit old t) fun s2 => advance 1 s2

/-- `RPB t2` (R263). -/
def execRpb (t : BitVec 2) (s : State) : Outcome := modifyPortZ 1 s.dpl (clearBit · t) s

/-- `ANDPDR i4, p4` (R264). -/
def execAndpdr (i p : Nibble) (s : State) : Outcome := modifyPortZ 2 p (· &&& i) s

/-- `ORPDR i4, p4` (R265). -/
def execOrpdr (i p : Nibble) (s : State) : Outcome := modifyPortZ 2 p (· ||| i) s

end Sys2Proof.Machine
end

