-- ==== Sys2Proof/Machine/SystemControl.lean ====
section
/-! DEFINITION. Timer, interrupt, standby, serial and other control instructions (49_system_control.md, R270 to R296). -/

namespace Sys2Proof.Machine

/-! ### Timer control -/

/-- `WTTM0` (R271), `T0_ORDER`: M(HL+1) : M(HL) : AC. Only the reload register is written. -/
def execWttm0 (s : State) : Outcome :=
  withAddr2 s fun lo hi => withRam s hi fun w => withRam s lo fun v =>
    advance 1 { s with t0r := (w ++ v ++ s.ac : BitVec 12) }

/-- `WTTM1` (R272). -/
def execWttm1 (s : State) : Outcome := advance 2 { s with t1ra := s.ea }

/-- `RTIM0` (R273): the counter, not the reload register; no flag. -/
def execRtim0 (s : State) : Outcome :=
  withAddr2 s fun lo hi =>
    let s1 := (s.writeRam hi (s.t0c.extractLsb' 8 4)).writeRam lo (s.t0c.extractLsb' 4 4)
    advance 1 { s1 with ac := s.t0c.extractLsb' 0 4 }

/-- `RTIM1` (R274). -/
def execRtim1 (s : State) : Outcome := advance 2 (s.setEa s.t1c)

/-- `START0` (R275). -/
def execStart0 (s : State) : Outcome := advance 2 { s with t0run := true }

/-- `START1` (R276). -/
def execStart1 (s : State) : Outcome := advance 2 { s with t1run := true }

/-- `STOP0` (R277). -/
def execStop0 (s : State) : Outcome := advance 2 { s with t0run := false }

/-- `STOP1` (R278). -/
def execStop1 (s : State) : Outcome := advance 2 { s with t1run := false }

/-! ### Interrupt control -/

/-- `MSET` (R280). -/
def execMset (s : State) : Outcome := advance 2 { s with mse := true }

/-- `MRESET` (R281): pending requests stay pending. -/
def execMreset (s : State) : Outcome := advance 2 { s with mse := false }

/-- `EIH i4` (R282): sets the flags the mask names; no flag register is written. -/
def execEih (i : Nibble) (s : State) : Outcome := advance 2 { s with edih := s.edih ||| i }

/-- `EIL i4` (R283). -/
def execEil (i : Nibble) (s : State) : Outcome := advance 2 { s with edil := s.edil ||| i }

/-- `DIH i4` (R284): clears the flags the mask names; ZF from the whole new group. -/
def execDih (i : Nibble) (s : State) : Outcome :=
  advance 2 { s with edih := s.edih &&& ~~~i, zf := isZero (s.edih &&& ~~~i) }

/-- `DIL i4` (R285). -/
def execDil (i : Nibble) (s : State) : Outcome :=
  advance 2 { s with edil := s.edil &&& ~~~i, zf := isZero (s.edil &&& ~~~i) }

/-- `WTSP` (R286). -/
def execWtsp (s : State) : Outcome := advance 2 { s with sp := s.ea }

/-- `RSP` (R287). -/
def execRsp (s : State) : Outcome := advance 2 (s.setEa s.sp)

/-! ### Standby control -/

/-- `HALT` (R288): PC is NPC when the mode changes. -/
def execHalt (s : State) : Outcome := advance 2 { s with mode := .halt }

/-- `HOLD` (R289): samples the P33/HOLD pin; low, HOLD mode; high, no other effect. -/
def execHold (s : State) : Outcome :=
  advance 2 { s with mode := if s.p33High then s.mode else .hold, draws := s.draws + 1 }

/-! ### Serial I/O control -/

/-- `STARTS` (R290). -/
def execStarts (s : State) : Outcome := advance 2 { s with siorun := true }

/-- `WTSIO` (R291). -/
def execWtsio (s : State) : Outcome := advance 2 { s with sio := s.ea }

/-- `RSIO` (R292). -/
def execRsio (s : State) : Outcome := advance 2 (s.setEa s.sio)

/-! ### Other -/

/-- `NOP` (R295). -/
def execNop (s : State) : Outcome := advance 1 s

/-- `SB i2` (R296): records the selection; a bank the part does not have is `Undefined(sb_bank_absent)`. -/
def execSb (i : BitVec 2) (s : State) : Outcome :=
  if i.toNat < s.conf.part.nbanks then advance 2 { s with sbr := i } else .fault .sbBankAbsent

end Sys2Proof.Machine
end

