-- ==== Sys2Proof/Machine/UserFlag.lean ====
section
/-! DEFINITION. Flag manipulation instructions (45_flag.md, R215 to R217). -/

namespace Sys2Proof.Machine

/-- `SFB n4` (R216). -/
def execSfb (n : Nibble) (s : State) : Outcome := advance 1 { s with uf := s.uf.set n.toNat true }

/-- `RFB n4` (R217): ZF is a free value, `ZF_RFB` = any. -/
def execRfb (n : Nibble) (s : State) : Outcome :=
  advance 1 { s with uf := s.uf.set n.toNat false, zf := Config.zfAfterRfb s.draws, draws := s.draws + 1 }

end Sys2Proof.Machine
end

