-- ==== Sys2Proof/Machine/Dispatch.lean ====
section
/-! DEFINITION. The meaning of each instruction: one arm per constructor of Instr (step (4) to (6) of R112). -/

namespace Sys2Proof.Machine

def exec (instr : Instr) (s : State) : Host.Outcome State Fault Refusal :=
  match instr with
  -- Accumulator manipulation (R121 to R133)
  | .cla => Sys2Proof.Machine.execCla s
  | .daa => Sys2Proof.Machine.execDaa s
  | .das => Sys2Proof.Machine.execDas s
  | .clc => Sys2Proof.Machine.execClc s
  | .stc => Sys2Proof.Machine.execStc s
  | .cma => Sys2Proof.Machine.execCma s
  | .ia => Sys2Proof.Machine.execIa s
  | .da => Sys2Proof.Machine.execDa s
  | .rar => Sys2Proof.Machine.execRar s
  | .ral => Sys2Proof.Machine.execRal s
  | .tae => Sys2Proof.Machine.execTae s
  | .tea => Sys2Proof.Machine.execTea s
  | .xae => Sys2Proof.Machine.execXae s
  -- Memory manipulation (R141 to R146)
  | .im => Sys2Proof.Machine.execIm s
  | .dm => Sys2Proof.Machine.execDm s
  | .imdr i8 => Sys2Proof.Machine.execImdr i8 s
  | .dmdr i8 => Sys2Proof.Machine.execDmdr i8 s
  | .smb t => Sys2Proof.Machine.execSmb t s
  | .rmb t => Sys2Proof.Machine.execRmb t s
  -- Arithmetic, logic and comparison (R152 to R165)
  | .ad => Sys2Proof.Machine.execAd s
  | .addr i8 => Sys2Proof.Machine.execAddr i8 s
  | .adc => Sys2Proof.Machine.execAdc s
  | .adi i => Sys2Proof.Machine.execAdi i s
  | .subc => Sys2Proof.Machine.execSubc s
  | .anda => Sys2Proof.Machine.execAnda s
  | .ora => Sys2Proof.Machine.execOra s
  | .exl => Sys2Proof.Machine.execExl s
  | .andm => Sys2Proof.Machine.execAndm s
  | .orm => Sys2Proof.Machine.execOrm s
  | .cm => Sys2Proof.Machine.execCm s
  | .ci i => Sys2Proof.Machine.execCi i s
  | .cli i => Sys2Proof.Machine.execCli i s
  | .cmb t => Sys2Proof.Machine.execCmb t s
  -- Load and store (R171 to R185)
  | .lai i => Sys2Proof.Machine.execLai i s
  | .lae => Sys2Proof.Machine.execLae s
  | .ladr i8 => Sys2Proof.Machine.execLadr i8 s
  | .s => Sys2Proof.Machine.execS s
  | .sae => Sys2Proof.Machine.execSae s
  | .la r => Sys2Proof.Machine.execLa r s
  | .laI r => Sys2Proof.Machine.execLaI r s
  | .laD r => Sys2Proof.Machine.execLaD r s
  | .xa r => Sys2Proof.Machine.execXa r s
  | .xaI r => Sys2Proof.Machine.execXaI r s
  | .xaD r => Sys2Proof.Machine.execXaD r s
  | .xadr i8 => Sys2Proof.Machine.execXadr i8 s
  | .leai i8 => Sys2Proof.Machine.execLeai i8 s
  | .rtbl => Sys2Proof.Machine.execRtbl s
  | .rtblp => Sys2Proof.Machine.execRtblp s
  -- Data pointer manipulation (R191 to R211)
  | .ldz i => Sys2Proof.Machine.execLdz i s
  | .lhi i => Sys2Proof.Machine.execLhi i s
  | .lli i => Sys2Proof.Machine.execLli i s
  | .lhli i8 => Sys2Proof.Machine.execLhli i8 s
  | .lxyi i8 => Sys2Proof.Machine.execLxyi i8 s
  | .il => Sys2Proof.Machine.execIl s
  | .dl => Sys2Proof.Machine.execDl s
  | .iy => Sys2Proof.Machine.execIy s
  | .dy => Sys2Proof.Machine.execDy s
  | .tah => Sys2Proof.Machine.execTah s
  | .tha => Sys2Proof.Machine.execTha s
  | .xah => Sys2Proof.Machine.execXah s
  | .tal => Sys2Proof.Machine.execTal s
  | .tla => Sys2Proof.Machine.execTla s
  | .xal => Sys2Proof.Machine.execXal s
  | .tax => Sys2Proof.Machine.execTax s
  | .txa => Sys2Proof.Machine.execTxa s
  | .xax => Sys2Proof.Machine.execXax s
  | .tay => Sys2Proof.Machine.execTay s
  | .tya => Sys2Proof.Machine.execTya s
  | .xay => Sys2Proof.Machine.execXay s
  -- Flag manipulation (R216, R217)
  | .sfb n => Sys2Proof.Machine.execSfb n s
  | .rfb n => Sys2Proof.Machine.execRfb n s
  -- Jump and subroutine (R221 to R231)
  | .jmp a => Sys2Proof.Machine.execJmp a s
  | .jpea => Sys2Proof.Machine.execJpea s
  | .cal a => Sys2Proof.Machine.execCal a s
  | .czp p => Sys2Proof.Machine.execCzp p s
  | .bank => Sys2Proof.Machine.execBank s
  | .push r => Sys2Proof.Machine.execPush r s
  | .pop r => Sys2Proof.Machine.execPop r s
  | .rt => Sys2Proof.Machine.execRt s
  | .rti => Sys2Proof.Machine.execRti s
  -- Branch (R236 to R247)
  | .ba t p => Sys2Proof.Machine.execBa t p s
  | .bna t p => Sys2Proof.Machine.execBna t p s
  | .bm t p => Sys2Proof.Machine.execBm t p s
  | .bnm t p => Sys2Proof.Machine.execBnm t p s
  | .bp t p => Sys2Proof.Machine.execBp t p s
  | .bnp t p => Sys2Proof.Machine.execBnp t p s
  | .bc p => Sys2Proof.Machine.execBc p s
  | .bnc p => Sys2Proof.Machine.execBnc p s
  | .bz p => Sys2Proof.Machine.execBz p s
  | .bnz p => Sys2Proof.Machine.execBnz p s
  | .bf n p => Sys2Proof.Machine.execBf n p s
  | .bnf n p => Sys2Proof.Machine.execBnf n p s
  -- I/O (R253 to R265)
  | .ip0 => Sys2Proof.Machine.execIp0 s
  | .ip => Sys2Proof.Machine.execIp s
  | .ipm => Sys2Proof.Machine.execIpm s
  | .ipdr i => Sys2Proof.Machine.execIpdr i s
  | .ip45 => Sys2Proof.Machine.execIp45 s
  | .op => Sys2Proof.Machine.execOp s
  | .opm => Sys2Proof.Machine.execOpm s
  | .opdr i => Sys2Proof.Machine.execOpdr i s
  | .op45 => Sys2Proof.Machine.execOp45 s
  | .spb t => Sys2Proof.Machine.execSpb t s
  | .rpb t => Sys2Proof.Machine.execRpb t s
  | .andpdr i p => Sys2Proof.Machine.execAndpdr i p s
  | .orpdr i p => Sys2Proof.Machine.execOrpdr i p s
  -- Timer, interrupt, standby, serial and other control (R271 to R296)
  | .wttm0 => Sys2Proof.Machine.execWttm0 s
  | .wttm1 => Sys2Proof.Machine.execWttm1 s
  | .rtim0 => Sys2Proof.Machine.execRtim0 s
  | .rtim1 => Sys2Proof.Machine.execRtim1 s
  | .start0 => Sys2Proof.Machine.execStart0 s
  | .start1 => Sys2Proof.Machine.execStart1 s
  | .stop0 => Sys2Proof.Machine.execStop0 s
  | .stop1 => Sys2Proof.Machine.execStop1 s
  | .mset => Sys2Proof.Machine.execMset s
  | .mreset => Sys2Proof.Machine.execMreset s
  | .eih i => Sys2Proof.Machine.execEih i s
  | .eil i => Sys2Proof.Machine.execEil i s
  | .dih i => Sys2Proof.Machine.execDih i s
  | .dil i => Sys2Proof.Machine.execDil i s
  | .wtsp => Sys2Proof.Machine.execWtsp s
  | .rsp => Sys2Proof.Machine.execRsp s
  | .halt => Sys2Proof.Machine.execHalt s
  | .hold => Sys2Proof.Machine.execHold s
  | .starts => Sys2Proof.Machine.execStarts s
  | .wtsio => Sys2Proof.Machine.execWtsio s
  | .rsio => Sys2Proof.Machine.execRsio s
  | .nop => Sys2Proof.Machine.execNop s
  | .sb i => Sys2Proof.Machine.execSb i s

end Sys2Proof.Machine
end

