-- ==== Sys2Proof/Machine/Fetch.lean ====
section
/-! DEFINITION. Fetching the instruction at PC (step (2) of R112, R27, R91) and placing bytes where it is fetched. -/

namespace Sys2Proof.Machine

/-- PC12 of the two addresses agree. -/
def sameBank (a b : RomAddr) : Bool := a.getLsbD 12 == b.getLsbD 12

/-- Decode bytes that the fetch has read, by the chip's `ENC2` (R104); bytes that are no row are
`Undefined(unassigned_opcode)` (R105, R106). -/
def decodeFetched (e : Enc2) (bytes : List Byte) : Except Fault Instr :=
  match decode e bytes with
  | .ok (i, _) => .ok i
  | .error _ => .error .unassignedOpcode

/-- The instruction at PC (R112): its first byte, the second where the first says so (R91), in the same bank (R27). -/
def fetch (s : State) : Except Fault Instr :=
  match romRead s s.pc with
  | .error f => .error f
  | .ok b1 =>
    match instrLength b1 with
    | none => .error .unassignedOpcode
    | some 1 => decodeFetched s.conf.enc2 [b1]
    | some _ =>
      if sameBank (s.pc + 1) s.pc then
        match romRead s (s.pc + 1) with
        | .error f => .error f
        | .ok b2 => decodeFetched s.conf.enc2 [b1, b2]
      else .error .pcOutOfBankOrRom

/-- The state with the bytes placed in the mask ROM from PC upward (R60). -/
def State.withRomBytes (s : State) (bytes : List Byte) : State :=
  { s with rom := (bytes.foldl (fun acc b => (acc.1.write acc.2.toNat b, acc.2 + 1)) (s.rom, s.pc)).1 }

end Sys2Proof.Machine
end

