-- ==== Sys2Proof/Machine/Step.lean ====
section
/-! DEFINITION. One step of the machine: the boundary, then in RUN mode an interrupt or one instruction (R112). -/

namespace Sys2Proof.Machine

/-- Fetch the instruction at PC and execute it (steps (2) to (6) of R112). -/
def runInstr (s : State) : Outcome :=
  match fetch s with
  | .ok i => exec i s
  | .error f => .fault f

/-- One boundary in RUN mode, after the agents have acted: step (1) of R112, else the instruction at PC. -/
def runStep (s : State) : Outcome :=
  match s.irqChoice with
  | .undefined => .fault .interruptInPrefixWindow
  | .take k => .next (s.takeInterrupt k)
  | .none => runInstr s

/-- One step: a reset if one occurs at this boundary (R340); else, by MODE (R330), the agents act and the CPU executes
one instruction or takes an interrupt, or HALT mode or HOLD mode goes on or ends. -/
def step (s : State) : Host.Outcome State Fault Refusal :=
  if s.resetOccurs then .next s.afterReset
  else
    match s.mode with
    | .run => runStep s.atBoundary
    | .halt => haltStep s.env.haltRelease s.atBoundary
    | .hold => holdStep s

/-- The state with an instruction's bits, numbered as spec/opcode_table.json numbers them, placed in ROM at PC, the
bytes past `nbits` zero. -/
def State.withFetchWord (s : State) (nbits w : Nat) : State := s.withRomBytes (tableBytes nbits w)

end Sys2Proof.Machine
end

