-- ==== Sys2Proof/Machine/Options.lean ====
section
/-! DEFINITION. The option bytes 2000H to 2007H of the LC66E308 (R9), which give the mask options of R8. They are
configuration and no program can read them; an image with an unused bit set is refused (U3). -/

namespace Sys2Proof.Machine

/-- The bits of the eight option bytes that are unused and must be 0 (R9). -/
def optionUnused : Vector Byte 8 := #v[0xE8, 0x00, 0x80, 0x00, 0xF0, 0xFF, 0xFF, 0xF3]

/-- Every unused bit of the image is 0. -/
def optionImageLegal (image : Vector Byte 8) : Bool :=
  ([0, 1, 2, 3, 4, 5, 6, 7] : List (Fin 8)).all fun k => image[k] &&& optionUnused[k] == 0

/-- The mask options that an image of the option bytes gives, or `none` where it is refused (R9). -/
def optionsOfImage (image : Vector Byte 8) : Option Options :=
  if optionImageLegal image then
    some
      { p0ResetHigh := image[0].getLsbD 1
        p1ResetHigh := image[0].getLsbD 2
        ceramicOsc := image[0].getLsbD 4
        watchdog := image[0].getLsbD 0
        pullUp :=
          #v[loNibble image[1], hiNibble image[1], loNibble image[2], hiNibble image[2],
             loNibble image[3], hiNibble image[3], loNibble image[4], loNibble image[7]] }
  else none

end Sys2Proof.Machine
end

