-- ==== Sys2Proof/Safety.lean ====
section
/-! DEFINITION. The terms statements use: the invariant of the machine, runs under any environment, runs that do not
stop, the instructions the spec lists together, and how an instruction is coded. -/

namespace Sys2Proof.Machine

/-- What every state of a run satisfies: RAM and ROM are in canonical form (R35, R36); SB has selected a bank the part
has (R296); BNK and VSK are never both 1, and VSK is 1 only with the vertical skip on (R112); and outside RUN mode no
prefix is pending (R288, R289, R112). -/
abbrev State.Inv (s : State) : Prop :=
  s.ram.ramWf = true ∧ s.rom.romWf s.conf.part.romSize = true ∧ s.sbr.toNat < s.conf.part.nbanks ∧
    (s.bnk && s.vsk) = false ∧ (s.vsk = true → s.conf.vskip = true) ∧
    (s.mode ≠ .run → s.bnk = false ∧ s.vsk = false)

/-- Runs in which the environment presents anything at each boundary (R80). -/
inductive Reaches : State → State → Prop where
  | refl (s : State) : Reaches s s
  | step {s t u : State} (v : Env) : Reaches s t → Machine.step { t with env := v } = .next u → Reaches s u

/-- No run from the state ends in a fault or a refusal, whatever the environment does. -/
def Safe (s : State) : Prop := ∀ t, Reaches s t → ∀ v, ∃ u, Machine.step { t with env := v } = .next u

/-- The instruction's bytes, both ways and whatever `ENC2` is, and its cycle count in the table (R93, R361). -/
def CodedAs (i : Instr) (bytes : List Byte) (cycles : Nat) : Prop :=
  (∀ e : Enc2, decode e bytes = .ok (i, []) ∧ encode e i = bytes) ∧ i.cycles = cycles

/-! ### The end of an instruction and the cells it stores -/

/-- NPC = A + `len` lies in the bank of A (R27) and below ROM_SIZE (R354, D3), so it may be used. -/
abbrev State.RoomForNpc (s : State) (len : Nat) : Prop :=
  s.pc.toNat % 4096 + len < 4096 ∧ s.pc.toNat + len < s.conf.part.romSize

/-- NPC = A + `len` lies in the page of A, so a transfer within the page is defined (R235). -/
abbrev State.RoomInPage (s : State) (len : Nat) : Prop := s.pc.toNat % 256 + len < 256

/-- The state after an instruction of `len` bytes that writes no PC and is neither BANK nor LAI (R112). -/
def State.ended (len : Nat) (s : State) : State := { s with pc := s.pc + BitVec.ofNat 13 len, bnk := false, vsk := false }

/-- The state after an instruction that writes PC (R112). -/
def State.wentTo (target : RomAddr) (s : State) : State := { s with pc := target, bnk := false, vsk := false }

/-- The address `low` in the page of the instruction at PC. -/
def State.pageAddr (s : State) (low : Byte) : RomAddr := (s.pc.extractLsb' 8 5 ++ low : RomAddr)

/-- The cells hold their words, and every other word of RAM reads as it did. -/
def OnlyStored (old new : Memory) (cells : List (RamAddr × Nibble)) : Prop :=
  (∀ c ∈ cells, ramRead new c.1 = some c.2) ∧ ∀ a, a ∉ cells.map Prod.fst → ramRead new a = ramRead old a

/-- The frame `CF:ZF:0:PC` that a call or an interrupt stores (R72). -/
def frameOf (cf zf : Bool) (pc : RomAddr) : BitVec 16 := BitVec.ofNat 16 (cf.toNat * 32768 + zf.toNat * 16384 + pc.toNat)

/-- The four cells of M4(SP) that hold the frame `w`, least significant word first (R70, R72). -/
def State.frameCells (s : State) (w : BitVec 16) : List (RamAddr × Nibble) :=
  [(s.stackAddr 0, w.extractLsb' 0 4), (s.stackAddr 1, w.extractLsb' 4 4),
   (s.stackAddr 2, w.extractLsb' 8 4), (s.stackAddr 3, w.extractLsb' 12 4)]

/-- How a two-byte branch with target byte `p` ends from `s`, `s'` being the state once its operand is read: taken
within its page, not taken where NPC may be used, and Undefined at the page end and at the bank or ROM end (R235, R27). -/
def Branches (i : Instr) (s s' : State) (taken : Bool) (p : Byte) : Prop :=
  (taken = true → s.RoomInPage 2 → exec i s = .next (.wentTo (s.pageAddr p) s')) ∧
  (taken = true → ¬ s.RoomInPage 2 → exec i s = .fault .pageBoundaryTransfer) ∧
  (taken = false → s.RoomForNpc 2 → exec i s = .next (.ended 2 s')) ∧
  (taken = false → ¬ s.RoomForNpc 2 → exec i s = .fault .pcOutOfBankOrRom)

/-- The number of the port that has latch `j`: P0 to P6 and PC (R37, R251). -/
def latchPort (j : Fin 8) : Nat := if j.val < 7 then j.val else 12

/-- The port numbers without a latch: 7 to 11, PD, PE and 15 (R251). -/
def noLatch (p : Nibble) : Prop := (7 ≤ p.toNat ∧ p.toNat ≤ 11) ∨ 13 ≤ p.toNat

/-! ### The instructions the spec lists together -/

/-- The instructions that write CF (R28). -/
def writesCarry : Instr → Bool
  | .clc | .stc | .ia | .da | .im | .dm | .imdr _ | .dmdr _ | .ad | .addr _ | .adc | .subc | .cm | .ci _
  | .rar | .ral | .rti => true
  | _ => false

/-- The instructions that list ZF as affected (R30). -/
def writesZero : Instr → Bool
  | .cla | .daa | .das | .cma | .ia | .da | .ral | .tea | .im | .dm | .imdr _ | .dmdr _ | .rmb _ | .ad | .addr _ | .adc
  | .adi _ | .subc | .anda | .ora | .exl | .andm | .orm | .cm | .ci _ | .cli _ | .cmb _ | .lai _ | .ladr _ | .la _
  | .laI _ | .laD _ | .xaI _ | .xaD _ | .il | .dl | .iy | .dy | .tha | .tla | .txa | .tya | .rfb _ | .rti | .ip0 | .ip
  | .ipdr _ | .rpb _ | .andpdr _ _ | .orpdr _ _ | .dih _ | .dil _ => true
  | _ => false

/-- The instructions that write SP (R24, R286). -/
def writesStackPointer : Instr → Bool
  | .wtsp | .cal _ | .czp _ | .push _ | .pop _ | .rt | .rti => true
  | _ => false

/-- The instructions that store to data memory (R67). -/
def storesToRam : Instr → Bool
  | .im | .dm | .imdr _ | .dmdr _ | .smb _ | .rmb _ | .andm | .orm | .xa _ | .xaI _ | .xaD _ | .xadr _ | .s | .sae
  | .ipm | .rtim0 | .push _ | .cal _ | .czp _ => true
  | _ => false

/-- The instructions that write the port latches, or after BANK the register bank (R251). -/
def writesPort : Instr → Bool
  | .op | .opm | .opdr _ | .op45 | .spb _ | .rpb _ | .andpdr _ _ | .orpdr _ _ | .rtblp => true
  | _ => false

/-- The instructions that read a pin or draw ZF: each draws a free value. -/
def drawsFreeValue : Instr → Bool
  | .rfb _ | .ip0 | .ip | .ipm | .ipdr _ | .ip45 | .bp _ _ | .bnp _ _ | .hold | .spb _ | .rpb _ | .andpdr _ _
  | .orpdr _ _ => true
  | _ => false

/-- The instructions that may leave the bank without a BANK before them: the calls and the returns (R296, R354). -/
def leavesBank : Instr → Bool
  | .cal _ | .czp _ | .rt | .rti => true
  | _ => false

/-- The instructions that use no NPC: they write PC from the stack (R27, R230, R231). -/
def usesNoNextAddress : Instr → Bool
  | .rt | .rti => true
  | _ => false

/-- The instructions that write E (R21). -/
def writesE : Instr → Bool
  | .tae | .xae | .lae | .leai _ | .rtbl | .ip45 | .rtim1 | .rsp | .rsio | .pop .ae => true
  | _ => false

/-- The instructions that write DPH (R191, R192, R194, R200, R202, R227). -/
def writesDph : Instr → Bool
  | .ldz _ | .lhi _ | .lhli _ | .tah | .xah | .pop .hl => true
  | _ => false

/-- The instructions that write DPL (R191, R193, R194, R196, R197, R203, R205, R227, and the stepping loads). -/
def writesDpl : Instr → Bool
  | .ldz _ | .lli _ | .lhli _ | .il | .dl | .tal | .xal | .pop .hl | .laI .hl | .laD .hl | .xaI .hl | .xaD .hl => true
  | _ => false

/-- The instructions that write DPX (R195, R206, R208, R227). -/
def writesDpx : Instr → Bool
  | .lxyi _ | .tax | .xax | .pop .xy => true
  | _ => false

/-- The instructions that write DPY (R195, R198, R199, R209, R211, R227, and the stepping loads). -/
def writesDpy : Instr → Bool
  | .lxyi _ | .iy | .dy | .tay | .xay | .pop .xy | .laI .xy | .laD .xy | .xaI .xy | .xaD .xy => true
  | _ => false

/-- The instructions that load AC with the vertical skip (R41). -/
def skipsVertically : Instr → Bool
  | .cla | .lai _ => true
  | _ => false

end Sys2Proof.Machine
end

