-- ==== Sys2Proof/Certificates/Slice0/Obligations.lean ====
section
/-! DEFINITION. The statements for the provers, one definition each, listed in OBLIGATIONS.json. "After BANK" in a
docstring means BNK = 1. -/

section

open Sys2Proof Sys2Proof.Machine

/-! ### Encoding -/

/-- Decode and encode agree (R104, R107, R108), for every table ENC2 in which no two rows share a code: what the encoder
writes, the decoder reads back, whatever bytes follow. The default ENC2 (log 9) is such a table, and under it the
instructions with an encoding of their own are the well-formed ones. -/
def Obligations.DecodeOfEncodeIsInstruction : Prop :=
  (∀ (e : Enc2) (i : Instr) (rest : List Byte), e.legal = true → i.encodable e = true →
    decode e (encode e i ++ rest) = .ok (i, rest)) ∧
  defaultEnc2.legal = true ∧ ∀ i : Instr, i.encodable defaultEnc2 = i.wellFormed

/-- Encode and decode agree (R107, R108), whatever ENC2 is: a decoded instruction's encoding is the bytes it was read
from, so that every bit of them counts, and no two byte sequences decode alike. -/
def Obligations.EncodeOfDecodeIsBytes : Prop :=
  ∀ (e : Enc2) (bytes rest : List Byte) (i : Instr), decode e bytes = .ok (i, rest) →
    encode e i ++ rest = bytes ∧ i.encodable e = true

/-- R91 and R105: the first byte alone gives the length, whatever ENC2 is; the six unassigned first bytes are no
instruction, and under the default ENC2 every other first byte begins one. -/
def Obligations.LengthFromFirstByte : Prop :=
  ∀ (e : Enc2) (b : Byte),
    (∀ rest i r, decode e (b :: rest) = .ok (i, r) →
      i.size =
        if (0x50 ≤ b.toNat ∧ b.toNat ≤ 0x57) ∨ (0x90 ≤ b.toNat ∧ b.toNat ≤ 0x9D) ∨ (0xB0 ≤ b.toNat ∧ b.toNat ≤ 0xC9) ∨
            b = 0xCD ∨ b = 0xCF ∨ (0xD0 ≤ b.toNat ∧ b.toNat ≤ 0xDD) ∨ 0xE0 ≤ b.toNat then 2 else 1) ∧
    (b = 0x9E ∨ b = 0x9F ∨ b = 0xCC ∨ b = 0xCE ∨ b = 0xDE ∨ b = 0xDF → ∀ rest r, decode e (b :: rest) ≠ .ok r) ∧
    (¬ (b = 0x9E ∨ b = 0x9F ∨ b = 0xCC ∨ b = 0xCE ∨ b = 0xDE ∨ b = 0xDF) →
      ∃ rest r, decode defaultEnc2 (b :: rest) = .ok r)

/-- R106: the second bytes that are assigned on page CFH and on page CDH, under the default ENC2 (D1, log 9). -/
def Obligations.AssignedSecondBytes : Prop :=
  ∀ (b : Byte) (rest : List Byte),
    ((∃ i, decode defaultEnc2 (0xCF :: b :: rest) = .ok (i, rest)) ↔
      b.toNat ≤ 0x2F ∨ (0x60 ≤ b.toNat ∧ b.toNat ≤ 0x7F) ∨ (0xA0 ≤ b.toNat ∧ b.toNat ≤ 0xBF) ∨
        (0xC0 ≤ b.toNat ∧ b.toNat ≤ 0xC3) ∨ (0xD0 ≤ b.toNat ∧ b.toNat ≤ 0xD5) ∨ b = 0xDA ∨ b = 0xDB ∨ b = 0xDE ∨
        b = 0xDF ∨ (0xE0 ≤ b.toNat ∧ b.toNat ≤ 0xE3) ∨ b = 0xE6 ∨ b = 0xE7 ∨ b = 0xE8 ∨ b = 0xEA ∨ b = 0xEC ∨
        b = 0xEE ∨ b = 0xEF ∨ (0xF0 ≤ b.toNat ∧ b.toNat ≤ 0xF8) ∨ b = 0xFA ∨ b = 0xFC ∨ b = 0xFF) ∧
    ((∃ i, decode defaultEnc2 (0xCD :: b :: rest) = .ok (i, rest)) ↔
      (0x40 ≤ b.toNat ∧ b.toNat ≤ 0x5F) ∨ (0x80 ≤ b.toNat ∧ b.toNat ≤ 0x9F))

/-- Words of several families written out from the spec's encodings decode to what they stand for: those of
95_test_vectors.md section 3, and C5 C2 of vector V48.15. CD 51 (EIH 1) and C5 C2 (ANDPDR with the immediate in the high
nibble) rest on the spec's completion ENC2 (R104, log 9). -/
def Obligations.SampleWordsDecode : Prop :=
  (∀ e : Enc2,
    decode e [0x0B] = .ok (.spb 3, []) ∧ decode e [0x2F] = .ok (.rmb 3, []) ∧ decode e [0x37] = .ok (.rfb 7, []) ∧
    decode e [0x4B] = .ok (.laI .xy, []) ∧ decode e [0x53, 0xFF] = .ok (.cal 0x3FF, []) ∧
    decode e [0x5F] = .ok (.xaD .xy, []) ∧ decode e [0x80] = .ok (.cla, []) ∧
    decode e [0x93, 0x20] = .ok (.bna 3 0x20, []) ∧ decode e [0xAF] = .ok (.czp 0xF, []) ∧
    decode e [0xB5, 0x10] = .ok (.bnf 5 0x10, []) ∧ decode e [0xCF, 0xF8] = .ok (.push .hl, []) ∧
    decode e [0xEF, 0xFF] = .ok (.jmp 0xFFF, []) ∧ decode e [0xCF, 0xFE] = .error .illegalSetting) ∧
  decode defaultEnc2 [0xC5, 0xC2] = .ok (.andpdr 0xC 2, []) ∧ decode defaultEnc2 [0xCF, 0x2F] = .ok (.adi 0xF, []) ∧
  decode defaultEnc2 [0xCD, 0x51] = .ok (.eih 1, [])

/-! ### The step, reset and interrupts -/

/-- R112: in RUN mode, with no reset and no interrupt at the boundary, a step executes the instruction that the bytes at
PC decode to by the chip's ENC2, in the state the other agents leave at the boundary. Where it stops at the fetch: an
address at or above ROM_SIZE, or a second byte there or in the other bank (R27); bytes that are no row (R105, R106); a
byte that the ROM image does not give (log 4). -/
def Obligations.StepRunsDecodedInstruction : Prop :=
  ∀ s : State, s.mode = .run → s.resetOccurs = false → s.atBoundary.irqChoice = .none →
    (s.conf.part.romSize ≤ s.pc.toNat → step s = .fault .pcOutOfBankOrRom) ∧
    (s.pc.toNat < s.conf.part.romSize → s.rom.read s.pc.toNat = none → step s = .fault .romByteNotGiven) ∧
    ∀ b1, romRead s s.pc = .ok b1 →
      (∀ i, decode s.conf.enc2 [b1] = .ok (i, []) → step s = exec i s.atBoundary) ∧
      (b1 ∈ ([0x9E, 0x9F, 0xCC, 0xCE, 0xDE, 0xDF] : List Byte) → step s = .fault .unassignedOpcode) ∧
      (decode s.conf.enc2 [b1] = .error .endOfBytes →
        (¬ s.RoomForNpc 1 → step s = .fault .pcOutOfBankOrRom) ∧
        (s.RoomForNpc 1 → s.rom.read (s.pc.toNat + 1) = none → step s = .fault .romByteNotGiven) ∧
        ∀ b2, s.RoomForNpc 1 → romRead s (s.pc + 1) = .ok b2 →
          (∀ i, decode s.conf.enc2 [b1, b2] = .ok (i, []) → step s = exec i s.atBoundary) ∧
          (∀ err, decode s.conf.enc2 [b1, b2] = .error err → step s = .fault .unassignedOpcode))

/-- R80, R311, R292: what happens at a boundary before the instruction changes the timer counters, the prescaler, the
requests and, once a transfer has been started, the serial registers; nothing else of the machine. The counters'
values are the open peripheral models' (log 26). -/
def Obligations.BoundaryTouchesPeripheralsOnly : Prop :=
  ∀ s : State,
    s.atBoundary = { s with
      t0c := s.atBoundary.t0c, t1c := s.atBoundary.t1c, prescaler := s.atBoundary.prescaler,
      sio := s.atBoundary.sio, sio2 := s.atBoundary.sio2, siorun := s.atBoundary.siorun,
      irq := s.irq ||| s.env.irqEvents,
      env := { resLow := false, watchdogExpired := false, irqEvents := 0, haltRelease := false, pins := s.env.pins },
      draws := s.draws + 1 } ∧
    (s.siorun = false →
      s.atBoundary.sio = s.sio ∧ s.atBoundary.sio2 = s.sio2 ∧ s.atBoundary.siorun = false)

/-- The invariant of the machine is kept by every step, from every state that has it: the canonical form of both
memories, the bank SB selected, the prefix states and the mode. -/
def Obligations.EveryStepKeepsInvariant : Prop :=
  ∀ s t : State, s.Inv → step s = .next t → t.Inv

/-- Whatever the environment presents at each boundary, a run from a state with the invariant keeps it, and keeps the
mask ROM (R35, R78) and the parameters (R8). -/
def Obligations.RunsKeepInvariantRomAndOptions : Prop :=
  ∀ s t : State, s.Inv → Reaches s t → t.Inv ∧ t.rom = s.rom ∧ t.conf = s.conf

/-- The state right after reset has the invariant, for every chip. -/
def Obligations.ResetHasInvariant : Prop :=
  State.reset.Inv ∧ ∀ c : Conf, (State.resetOf c).Inv

/-- R48, R49, R341: what reset leaves, for every chip: the values the source gives and the spec's own treatment
(RESET_PC, MSE, BNK, VSK, MODE and IRQ: log 2; FFCH in timer 0's counter: log 5). No RAM word has a value. -/
def Obligations.ResetValues : Prop :=
  ∀ c : Conf,
    (State.resetOf c).t0c = 0xFFC ∧
    (State.resetOf c).pl[0] = (if c.options.p0ResetHigh then 0xF else 0) ∧
    (State.resetOf c).pl[1] = (if c.options.p1ResetHigh then 0xF else 0) ∧
    (State.resetOf c).pl[2] = 0xF ∧ (State.resetOf c).pl[3] &&& 7 = 7 ∧ (State.resetOf c).pl[4] = 0xF ∧
    (State.resetOf c).pl[5] = 0xF ∧ (State.resetOf c).pl[6] = 0xF ∧ (State.resetOf c).pl[7] &&& 12 = 12 ∧
    (State.resetOf c).inputModes = { comparators := 0, threeValue := 0 } ∧
    (State.resetOf c).pc = c.resetPc ∧ (State.resetOf c).mse = false ∧ (State.resetOf c).irq = 0 ∧
    (State.resetOf c).bnk = false ∧ (State.resetOf c).vsk = false ∧ (State.resetOf c).mode = .run ∧
    (∀ a, ramRead (State.resetOf c).ram a = none) ∧ State.reset.pc = 0

/-- R340, R341, R343: RES low while P33/HOLD is high resets the machine in any mode, and so does the watchdog where the
option is present outside HOLD mode; with P33/HOLD low and no watchdog expiry no reset occurs. RAM loses its values,
the mask ROM and the chip stay. Choices, not the source's words: that the watchdog's action is a reset (D19, log 37); PC at
RESET_PC, MSE, BNK, VSK and IRQ 0 and RUN mode (D2, log 2); FFCH in the counter (log 5); RAM without values, ROM and
parameters kept (D28, log 36). -/
def Obligations.ResetByPinOrWatchdog : Prop :=
  ∀ s : State,
    ((s.env.resLow = true ∧ s.p33High = true) ∨
        (s.env.watchdogExpired = true ∧ s.conf.options.watchdog = true ∧ s.mode ≠ .hold) →
      ∃ t, step s = .next t ∧ t.pc = s.conf.resetPc ∧ t.mse = false ∧ t.bnk = false ∧ t.vsk = false ∧ t.mode = .run ∧
        t.irq = 0 ∧ t.t0c = 0xFFC ∧ t.pl[2] = 0xF ∧ t.pl[0] = (if s.conf.options.p0ResetHigh then 0xF else 0) ∧
        (∀ a, ramRead t.ram a = none) ∧ t.rom = s.rom ∧ t.conf = s.conf) ∧
    (s.p33High = false → s.env.watchdogExpired = false → s.resetOccurs = false)

/-- R330, R331: in HALT mode nothing executes; a qualifying interrupt ends the mode and is taken, else the release
event ends it, else it goes on. What ends the mode is the spec's own choice (D20). The model's choices, on which R331 and
R304 say a claim must not depend: that the interrupt wins where the release event is there too (log 27), and that it is
taken at this first boundary (log 23). -/
def Obligations.HaltModeGoesOnOrEnds : Prop :=
  ∀ s : State, s.mode = .halt → s.resetOccurs = false →
    (∀ k, s.atBoundary.irqChoice = .take k →
      step s = .next { s.atBoundary.takeInterrupt k with mode := .run }) ∧
    (s.atBoundary.irqChoice = .none → s.env.haltRelease = true → step s = .next { s.atBoundary with mode := .run }) ∧
    (s.atBoundary.irqChoice = .none → s.env.haltRelease = false → step s = .next s.atBoundary)

/-- R330, R334, R335: in HOLD mode everything stands still while P33/HOLD is low, except that requests become pending;
when the pin is high the mode ends, timer 0 holds FFCH (log 5) and the CPU registers, flags, RAM and latches are kept.
The fields that R335 leaves unconstrained stand here with whatever value they get (log 28). -/
def Obligations.HoldModeGoesOnOrEnds : Prop :=
  ∀ s : State, s.mode = .hold → s.resetOccurs = false →
    (s.p33High = false →
      step s = .next { s with irq := s.irq ||| s.env.irqEvents, env := s.env.afterBoundary, draws := s.draws + 1 }) ∧
    (s.p33High = true →
      ∃ t, step s = .next t ∧
        t = { s with
          mode := .run, t0c := 0xFFC, irq := s.irq ||| s.env.irqEvents, env := s.env.afterBoundary,
          draws := s.draws + 1, t0r := t.t0r, t0run := t.t0run, t1rb := t.t1rb, t1c := t.t1c, t1run := t.t1run,
          prescaler := t.prescaler, sio := t.sio, sio2 := t.sio2, siorun := t.siorun, inputModes := t.inputModes,
          cr := t.cr })

/-- R304, R305: an interrupt is chosen exactly where one qualifies, that is MSE, the source's enable flag and its
request are 1, and it is one that `IRQ_PRIORITY` puts first (given as ranks: log 23). -/
def Obligations.InterruptChosenWhereOneQualifies : Prop :=
  ∀ s : State,
    (s.chooseIrq = none ↔
      ∀ k : Fin 8, ¬ (s.mse = true ∧ (s.edih ++ s.edil : BitVec 8).getLsbD (s.conf.irqEnableMap[k]).val = true ∧
        s.irq.getLsbD k.val = true)) ∧
    (∀ k, s.chooseIrq = some k →
      (s.mse = true ∧ (s.edih ++ s.edil : BitVec 8).getLsbD (s.conf.irqEnableMap[k]).val = true ∧
        s.irq.getLsbD k.val = true) ∧
      ∀ j : Fin 8, (s.edih ++ s.edil : BitVec 8).getLsbD (s.conf.irqEnableMap[j]).val = true → s.irq.getLsbD j.val = true →
        (s.conf.irqRank[k]).val < (s.conf.irqRank[j]).val ∨ ((s.conf.irqRank[k]).val = (s.conf.irqRank[j]).val ∧ k ≤ j))

/-- R307, R308: taking interrupt k in RUN mode stores the frame of CF, ZF and PC at M4(SP) (layout: log 15), subtracts 4
from SP, goes to VEC[k] and has the effects that IRQ_ENTRY_EFFECTS names, whichever they are: IRQ[k], MSE and the source's
enable flag cleared or kept. Nothing else changes. That a qualifying interrupt is taken at this boundary is the model's
choice (log 23): R304 allows any later one. -/
def Obligations.InterruptEntryStoresFrame : Prop :=
  ∀ (s : State) (k : Fin 8), s.mode = .run → s.resetOccurs = false → s.bnk = false → s.vsk = false →
    s.atBoundary.chooseIrq = some k →
    ∃ (r : Memory) (h l : Nibble), step s = .next { s.atBoundary with
        ram := r, sp := s.sp - 4, pc := s.conf.vec[k]
        mse := if s.conf.entryEffects.clearsMaster then false else s.mse
        irq := if s.conf.entryEffects.clearsRequest then
            (s.irq ||| s.env.irqEvents) &&& ~~~((1 : BitVec 8) <<< k.val)
          else s.irq ||| s.env.irqEvents
        edih := h, edil := l } ∧
      OnlyStored s.ram r (s.frameCells (frameOf s.cf s.zf s.pc)) ∧
      (s.conf.entryEffects.clearsEnable = false → h = s.edih ∧ l = s.edil) ∧
      (s.conf.entryEffects.clearsEnable = true → ∀ b : Fin 4,
        h.getLsbD b.val = (if 4 + b.val = (s.conf.irqEnableMap[k]).val then false else s.edih.getLsbD b.val) ∧
        l.getLsbD b.val = (if b.val = (s.conf.irqEnableMap[k]).val then false else s.edil.getLsbD b.val))

/-- R309: where an interrupt qualifies with BNK or VSK at 1, the parameter decides: Undefined, or it waits and the
instruction at PC is executed (D25, log 24). -/
def Obligations.PrefixWindow : Prop :=
  ∀ (s : State) (k : Fin 8), s.mode = .run → s.resetOccurs = false → s.bnk = true ∨ s.vsk = true →
    s.atBoundary.chooseIrq = some k →
    (s.conf.irqWindow = .undefined → step s = .fault .interruptInPrefixWindow) ∧
    (s.conf.irqWindow = .defer → s.atBoundary.irqChoice = .none ∧ step s = runInstr s.atBoundary)

/-- R26, R70, R230, R231, R307, R310: a frame that CAL, CZP or an interrupt stored comes back: from any state with that
stack, RT restores PC and SP and keeps the flags, and RTI restores CF and ZF as well. -/
def Obligations.StoredFrameComesBack : Prop :=
  ∀ s u : State, u.conf = s.conf →
    (∀ k, u.ram = (s.takeInterrupt k).ram → u.sp = (s.takeInterrupt k).sp →
      exec .rt u = .next (.wentTo s.pc { u with sp := s.sp }) ∧
      exec .rti u = .next (.wentTo s.pc
        { u with sp := s.sp, cf := s.cf, zf := s.zf, mse := s.conf.entryEffects.rtiSetsMaster || u.mse })) ∧
    (∀ a t, exec (.cal a) s = .next t → u.ram = t.ram → u.sp = t.sp →
      exec .rt u = .next (.wentTo (s.pc + 2) { u with sp := s.sp }) ∧
      exec .rti u = .next (.wentTo (s.pc + 2)
        { u with sp := s.sp, cf := s.cf, zf := s.zf, mse := s.conf.entryEffects.rtiSetsMaster || u.mse })) ∧
    (∀ p t, exec (.czp p) s = .next t → u.ram = t.ram → u.sp = t.sp →
      exec .rt u = .next (.wentTo (s.pc + 1) { u with sp := s.sp }) ∧
      exec .rti u = .next (.wentTo (s.pc + 1)
        { u with sp := s.sp, cf := s.cf, zf := s.zf, mse := s.conf.entryEffects.rtiSetsMaster || u.mse }))

/-! ### Rules over all instructions -/

/-- R28: no instruction outside the rule's list of writers changes CF. -/
def Obligations.OnlyListedInstructionsWriteCarry : Prop :=
  ∀ (i : Instr) (s t : State), exec i s = .next t → writesCarry i = false → t.cf = s.cf

/-- R30: no instruction outside the rule's list changes ZF. -/
def Obligations.OnlyListedInstructionsWriteZero : Prop :=
  ∀ (i : Instr) (s t : State), exec i s = .next t → writesZero i = false → t.zf = s.zf

/-- R21, R22, R24, R31: E, the data pointers, SP and the user flags are written by the listed instructions only. -/
def Obligations.OnlyListedInstructionsWriteRegisters : Prop :=
  ∀ (i : Instr) (s t : State), exec i s = .next t →
    (writesE i = false → t.e = s.e) ∧ (writesDph i = false → t.dph = s.dph) ∧ (writesDpl i = false → t.dpl = s.dpl) ∧
    (writesDpx i = false → t.dpx = s.dpx) ∧ (writesDpy i = false → t.dpy = s.dpy) ∧
    (writesStackPointer i = false → t.sp = s.sp) ∧
    ((∀ n, i ≠ .sfb n ∧ i ≠ .rfb n) → t.uf = s.uf)

/-- R32 to R34, R39, R40, R46: which instructions change the control state: each part only by the instructions named
for it, apart from what a write to the register bank after BANK aliases (R44, log 21). ROM, the parameters, the
environment and the prescaler (R322) are changed by none, and no instruction sets a request bit (R310). -/
def Obligations.OnlyListedInstructionsWriteControlState : Prop :=
  ∀ (i : Instr) (s t : State), exec i s = .next t →
    (i ≠ .mset → i ≠ .mreset → i ≠ .rti → t.mse = s.mse) ∧
    (i ≠ .halt → i ≠ .hold → t.mode = s.mode) ∧
    ((∀ n, i ≠ .sb n) → t.sbr = s.sbr) ∧
    t.rom = s.rom ∧ t.conf = s.conf ∧ t.env = s.env ∧ t.prescaler = s.prescaler ∧
    (drawsFreeValue i = false → t.draws = s.draws) ∧
    (∀ k : Fin 8, t.irq.getLsbD k.val = true → s.irq.getLsbD k.val = true) ∧
    (writesPort i = false → t.pl = s.pl) ∧
    (s.bnk = false ∨ writesPort i = false →
      t.cr = s.cr ∧ t.irq = s.irq ∧ t.t1rb = s.t1rb ∧ t.sio2 = s.sio2 ∧ t.inputModes = s.inputModes ∧
      t.t0c = s.t0c ∧ t.t1c = s.t1c ∧
      (i ≠ .wttm0 → t.t0r = s.t0r) ∧ (i ≠ .start0 → i ≠ .stop0 → t.t0run = s.t0run) ∧
      (i ≠ .wttm1 → t.t1ra = s.t1ra) ∧ (i ≠ .start1 → i ≠ .stop1 → t.t1run = s.t1run) ∧
      (i ≠ .wtsio → t.sio = s.sio) ∧ (i ≠ .starts → t.siorun = s.siorun) ∧
      ((∀ n, i ≠ .eih n ∧ i ≠ .dih n) → t.edih = s.edih) ∧ ((∀ n, i ≠ .eil n ∧ i ≠ .dil n) → t.edil = s.edil))

/-- R67, R80: only the instructions the rule lists as storing change data memory. -/
def Obligations.OnlyListedInstructionsStore : Prop :=
  ∀ (i : Instr) (s t : State), exec i s = .next t → storesToRam i = false → t.ram = s.ram

/-- R112 step (6), R41, R42: the prefix states after an instruction. -/
def Obligations.PrefixStatesAfterInstruction : Prop :=
  ∀ (i : Instr) (s t : State), exec i s = .next t →
    (t.bnk = true ↔ i = .bank) ∧
    (t.vsk = true ↔ (i = .cla ∨ ∃ n, i = .lai n) ∧ s.conf.vskip = true)

/-- R27, R221, R354: of an instruction within the ROM none but the returns, which use no NPC, completes where NPC lies in
another bank or reaches ROM_SIZE (log 30); and PC12 is kept by every instruction but the calls, the returns and a JMP
after BANK. -/
def Obligations.BankEnds : Prop :=
  ∀ (i : Instr) (s t : State), exec i s = .next t →
    (usesNoNextAddress i = false → s.pc.toNat < s.conf.part.romSize → s.RoomForNpc i.size) ∧
    (leavesBank i = false → (∀ a, i = .jmp a → s.bnk = false) → t.pc.getLsbD 12 = s.pc.getLsbD 12)

/-! ### Registers and flags: rules the spec states from the source alone -/

/-- R131, R133, R200, R202, R203, R205, R206, R208, R209, R211: the transfers out of AC and the exchanges; no flag.
Every register holds a value (log 1). -/
def Obligations.RegisterMovesAndExchanges : Prop :=
  (CodedAs .tae [0x45] 1 ∧ CodedAs .xae [0x44] 1 ∧ CodedAs .xah [0x40] 1 ∧ CodedAs .xal [0x41] 1 ∧
    CodedAs .xax [0x42] 1 ∧ CodedAs .xay [0x43] 1 ∧ CodedAs .tah [0xCF, 0xF0] 2 ∧ CodedAs .tal [0xCF, 0xF1] 2 ∧
    CodedAs .tax [0xCF, 0xF2] 2 ∧ CodedAs .tay [0xCF, 0xF3] 2) ∧
  ∀ s : State,
    (s.RoomForNpc 1 →
      exec .tae s = .next (.ended 1 { s with e := s.ac }) ∧
      exec .xae s = .next (.ended 1 { s with ac := s.e, e := s.ac }) ∧
      exec .xah s = .next (.ended 1 { s with ac := s.dph, dph := s.ac }) ∧
      exec .xal s = .next (.ended 1 { s with ac := s.dpl, dpl := s.ac }) ∧
      exec .xax s = .next (.ended 1 { s with ac := s.dpx, dpx := s.ac }) ∧
      exec .xay s = .next (.ended 1 { s with ac := s.dpy, dpy := s.ac })) ∧
    (s.RoomForNpc 2 →
      exec .tah s = .next (.ended 2 { s with dph := s.ac }) ∧
      exec .tal s = .next (.ended 2 { s with dpl := s.ac }) ∧
      exec .tax s = .next (.ended 2 { s with dpx := s.ac }) ∧
      exec .tay s = .next (.ended 2 { s with dpy := s.ac }))

/-- R183, R191, R194, R195: immediates into E and AC and into the data pointers; no flag. -/
def Obligations.ImmediatesIntoPairs : Prop :=
  ∀ (i : Nibble) (i8 : Byte),
    (CodedAs (.ldz i) [0x60 + i.setWidth 8] 1 ∧ CodedAs (.leai i8) [0xC6, i8] 2 ∧ CodedAs (.lhli i8) [0xC0, i8] 2 ∧
      CodedAs (.lxyi i8) [0xC2, i8] 2) ∧
    ∀ s : State,
      (s.RoomForNpc 1 → exec (.ldz i) s = .next (.ended 1 { s with dph := 0, dpl := i })) ∧
      (s.RoomForNpc 2 →
        exec (.leai i8) s =
          .next (.ended 2 { s with e := BitVec.ofNat 4 (i8.toNat / 16), ac := BitVec.ofNat 4 (i8.toNat % 16) }) ∧
        exec (.lhli i8) s =
          .next (.ended 2 { s with dph := BitVec.ofNat 4 (i8.toNat / 16), dpl := BitVec.ofNat 4 (i8.toNat % 16) }) ∧
        exec (.lxyi i8) s =
          .next (.ended 2 { s with dpx := BitVec.ofNat 4 (i8.toNat / 16), dpy := BitVec.ofNat 4 (i8.toNat % 16) }))

/-- R124, R125, R129, R216, R295: the carry flag's instructions, the rotate right, a user flag set, and NOP. -/
def Obligations.CarryRotateUserFlagAndNop : Prop :=
  (CodedAs .clc [0x1E] 1 ∧ CodedAs .stc [0x1F] 1 ∧ CodedAs .rar [0x10] 1 ∧ CodedAs .nop [0x00] 1) ∧
  ∀ n : Nibble, CodedAs (.sfb n) [0x70 + n.setWidth 8] 1 ∧
    ∀ s : State, s.RoomForNpc 1 →
      exec .clc s = .next (.ended 1 { s with cf := false }) ∧
      exec .stc s = .next (.ended 1 { s with cf := true }) ∧
      exec .rar s =
        .next (.ended 1 { s with ac := BitVec.ofNat 4 (s.ac.toNat / 2 + 8 * s.cf.toNat), cf := decide (s.ac.toNat % 2 = 1) }) ∧
      exec .nop s = .next (.ended 1 s) ∧
      ∃ f : Vector Bool 16, exec (.sfb n) s = .next (.ended 1 { s with uf := f }) ∧ f[n.toNat] = true ∧
        ∀ m : Nibble, m ≠ n → f[m.toNat] = s.uf[m.toNat]

/-- R122, R123, R155: DAA, DAS and ADI add modulo 16 and write ZF, never CF. ZF = Z(sum) is the spec's general rule R29
(log 38), and the codes are those R100 derives. ADI 6 and ADI 0AH are the bytes of DAA and DAS (R107). -/
def Obligations.AddImmediateAndDecimalAdjust : Prop :=
  (CodedAs .daa [0xCF, 0x26] 2 ∧ CodedAs .das [0xCF, 0x2A] 2) ∧
  ∀ i : Nibble, (∀ e : Enc2, encode e (.adi i) = [0xCF, 0x20 + i.setWidth 8]) ∧ (Instr.adi i).cycles = 2 ∧
    (i ≠ 6 → i ≠ 10 → decode defaultEnc2 [0xCF, 0x20 + i.setWidth 8] = .ok (.adi i, [])) ∧
    ∀ s : State, s.RoomForNpc 2 →
      exec .daa s =
        .next (.ended 2 { s with ac := BitVec.ofNat 4 (s.ac.toNat + 6), zf := decide ((s.ac.toNat + 6) % 16 = 0) }) ∧
      exec .das s =
        .next (.ended 2 { s with ac := BitVec.ofNat 4 (s.ac.toNat + 10), zf := decide ((s.ac.toNat + 10) % 16 = 0) }) ∧
      exec (.adi i) s =
        .next (.ended 2 { s with ac := BitVec.ofNat 4 (s.ac.toNat + i.toNat),
                                 zf := decide ((s.ac.toNat + i.toNat) % 16 = 0) })

/-! ### Memory: rules the spec states from the source alone, but for what StoresAndExchanges says of unwritten words -/

/-- R145, R174, R179, R182: SMB, S, XA and XADR: one word of memory is written, no flag; those that read the word need
it to hold a value. That they stop where it holds none is the spec's own decision R50 (log 3), and that they stop so also
where NPC may not be used is the model's choice (log 43). -/
def Obligations.StoresAndExchanges : Prop :=
  (∀ t : BitVec 2, CodedAs (.smb t) [0x0C + t.setWidth 8] 1) ∧ CodedAs .s [0x47] 1 ∧ CodedAs (.xa .hl) [0x4C] 1 ∧
  CodedAs (.xa .xy) [0x4E] 1 ∧ (∀ i8 : Byte, CodedAs (.xadr i8) [0xC8, i8] 2) ∧
  (∀ (s : State) (a : RamAddr),
    (s.dataAddr s.hl = some a → s.RoomForNpc 1 →
      ∃ r, exec .s s = .next (.ended 1 { s with ram := r }) ∧ OnlyStored s.ram r [(a, s.ac)]) ∧
    ∀ m : Nibble, ramRead s.ram a = some m →
      (∀ t : BitVec 2, s.dataAddr s.hl = some a → s.RoomForNpc 1 →
        ∃ r, exec (.smb t) s = .next (.ended 1 { s with ram := r }) ∧
          OnlyStored s.ram r [(a, m ||| ((1 : Nibble) <<< t.toNat))]) ∧
      (s.dataAddr s.hl = some a → s.RoomForNpc 1 →
        ∃ r, exec (.xa .hl) s = .next (.ended 1 { s with ram := r, ac := m }) ∧ OnlyStored s.ram r [(a, s.ac)]) ∧
      (s.dataAddr s.xy = some a → s.RoomForNpc 1 →
        ∃ r, exec (.xa .xy) s = .next (.ended 1 { s with ram := r, ac := m }) ∧ OnlyStored s.ram r [(a, s.ac)]) ∧
      (∀ i8, s.dataAddr i8 = some a → s.RoomForNpc 2 →
        ∃ r, exec (.xadr i8) s = .next (.ended 2 { s with ram := r, ac := m }) ∧ OnlyStored s.ram r [(a, s.ac)])) ∧
  ∀ (s : State) (a : RamAddr), ramRead s.ram a = none →
    (s.dataAddr s.hl = some a →
      (∀ t, exec (.smb t) s = .fault .readOfUnwrittenState) ∧ exec (.xa .hl) s = .fault .readOfUnwrittenState) ∧
    (s.dataAddr s.xy = some a → exec (.xa .xy) s = .fault .readOfUnwrittenState) ∧
    (∀ i8, s.dataAddr i8 = some a → exec (.xadr i8) s = .fault .readOfUnwrittenState)

/-- R177, R178, R180, R181: the loads and exchanges that step their pointer: only the low pointer register steps,
modulo 16, after the access, and ZF is set from it. -/
def Obligations.SteppingLoadsAndExchanges : Prop :=
  (CodedAs (.laI .hl) [0x49] 2 ∧ CodedAs (.laI .xy) [0x4B] 2 ∧ CodedAs (.laD .hl) [0x59] 2 ∧
    CodedAs (.laD .xy) [0x5B] 2 ∧ CodedAs (.xaI .hl) [0x4D] 2 ∧ CodedAs (.xaI .xy) [0x4F] 2 ∧
    CodedAs (.xaD .hl) [0x5D] 2 ∧ CodedAs (.xaD .xy) [0x5F] 2) ∧
  ∀ (s : State) (a : RamAddr) (m : Nibble), ramRead s.ram a = some m → s.RoomForNpc 1 →
    (s.dataAddr s.hl = some a →
      exec (.laI .hl) s = .next (.ended 1 { s with ac := m, dpl := BitVec.ofNat 4 (s.dpl.toNat + 1),
                                                   zf := decide ((s.dpl.toNat + 1) % 16 = 0) }) ∧
      exec (.laD .hl) s = .next (.ended 1 { s with ac := m, dpl := BitVec.ofNat 4 (s.dpl.toNat + 15),
                                                   zf := decide ((s.dpl.toNat + 15) % 16 = 0) }) ∧
      (∃ r, exec (.xaI .hl) s = .next (.ended 1 { s with ram := r, ac := m, dpl := BitVec.ofNat 4 (s.dpl.toNat + 1),
                                                         zf := decide ((s.dpl.toNat + 1) % 16 = 0) }) ∧
        OnlyStored s.ram r [(a, s.ac)]) ∧
      (∃ r, exec (.xaD .hl) s = .next (.ended 1 { s with ram := r, ac := m, dpl := BitVec.ofNat 4 (s.dpl.toNat + 15),
                                                         zf := decide ((s.dpl.toNat + 15) % 16 = 0) }) ∧
        OnlyStored s.ram r [(a, s.ac)])) ∧
    (s.dataAddr s.xy = some a →
      exec (.laI .xy) s = .next (.ended 1 { s with ac := m, dpy := BitVec.ofNat 4 (s.dpy.toNat + 1),
                                                   zf := decide ((s.dpy.toNat + 1) % 16 = 0) }) ∧
      exec (.laD .xy) s = .next (.ended 1 { s with ac := m, dpy := BitVec.ofNat 4 (s.dpy.toNat + 15),
                                                   zf := decide ((s.dpy.toNat + 15) % 16 = 0) }) ∧
      (∃ r, exec (.xaI .xy) s = .next (.ended 1 { s with ram := r, ac := m, dpy := BitVec.ofNat 4 (s.dpy.toNat + 1),
                                                         zf := decide ((s.dpy.toNat + 1) % 16 = 0) }) ∧
        OnlyStored s.ram r [(a, s.ac)]) ∧
      (∃ r, exec (.xaD .xy) s = .next (.ended 1 { s with ram := r, ac := m, dpy := BitVec.ofNat 4 (s.dpy.toNat + 15),
                                                         zf := decide ((s.dpy.toNat + 15) % 16 = 0) }) ∧
        OnlyStored s.ram r [(a, s.ac)]))

/-- R162: CM compares magnitudes: CF is 1 where M is not above AC, ZF where they are equal; neither AC nor memory is
written. -/
def Obligations.CompareMagnitude : Prop :=
  CodedAs .cm [0x16] 1 ∧
  ∀ (s : State) (a : RamAddr) (m : Nibble), s.dataAddr s.hl = some a → ramRead s.ram a = some m → s.RoomForNpc 1 →
    exec .cm s = .next (.ended 1 { s with cf := decide (m.toNat ≤ s.ac.toNat), zf := decide (m = s.ac) })

/-! ### Registers: rules that rest on the spec's readings -/

/-- R126, R132, R201, R204, R207, R210 with the spec's general ZF rule R29 (log 38): complement and transfers into AC. -/
def Obligations.TransfersIntoAccumulator : Prop :=
  ∀ s : State,
    (s.RoomForNpc 1 →
      exec .cma s = .next (.ended 1 { s with ac := ~~~s.ac, zf := decide (s.ac = 15) }) ∧
      exec .tea s = .next (.ended 1 { s with ac := s.e, zf := decide (s.e = 0) })) ∧
    (s.RoomForNpc 2 →
      exec .tha s = .next (.ended 2 { s with ac := s.dph, zf := decide (s.dph = 0) }) ∧
      exec .tla s = .next (.ended 2 { s with ac := s.dpl, zf := decide (s.dpl = 0) }) ∧
      exec .txa s = .next (.ended 2 { s with ac := s.dpx, zf := decide (s.dpx = 0) }) ∧
      exec .tya s = .next (.ended 2 { s with ac := s.dpy, zf := decide (s.dpy = 0) }))

/-- R127, R128, R130, R196 to R199: increments, decrements and the rotate left, CF of a decrement by DEC_CF (log 12). -/
def Obligations.IncrementsDecrementsAndRotateLeft : Prop :=
  ∀ s : State, s.RoomForNpc 1 →
    exec .ia s = .next (.ended 1 { s with ac := BitVec.ofNat 4 (s.ac.toNat + 1), cf := decide (s.ac = 15),
                                          zf := decide (s.ac = 15) }) ∧
    exec .da s = .next (.ended 1 { s with ac := BitVec.ofNat 4 (s.ac.toNat + 15),
                                          cf := decide ((s.conf.decCf = .borrowInverted) ↔ s.ac ≠ 0),
                                          zf := decide (s.ac = 1) }) ∧
    exec .ral s = .next (.ended 1 { s with ac := BitVec.ofNat 4 (2 * s.ac.toNat + s.cf.toNat),
                                           cf := decide (8 ≤ s.ac.toNat),
                                           zf := decide ((2 * s.ac.toNat + s.cf.toNat) % 16 = 0) }) ∧
    exec .il s = .next (.ended 1 { s with dpl := BitVec.ofNat 4 (s.dpl.toNat + 1), zf := decide (s.dpl = 15) }) ∧
    exec .dl s = .next (.ended 1 { s with dpl := BitVec.ofNat 4 (s.dpl.toNat + 15), zf := decide (s.dpl = 1) }) ∧
    exec .iy s = .next (.ended 1 { s with dpy := BitVec.ofNat 4 (s.dpy.toNat + 1), zf := decide (s.dpy = 15) }) ∧
    exec .dy s = .next (.ended 1 { s with dpy := BitVec.ofNat 4 (s.dpy.toNat + 15), zf := decide (s.dpy = 1) })

/-- R41, R121, R171: the vertical skip (log 13): a LAI or CLA directly after one loads nothing; the first loads AC and
sets ZF. -/
def Obligations.VerticalSkip : Prop :=
  ∀ (s : State) (i : Nibble), s.RoomForNpc 1 →
    (s.vsk = true → s.conf.vskip = true →
      exec (.lai i) s = .next { s with pc := s.pc + 1, bnk := false, vsk := true } ∧
      exec .cla s = .next { s with pc := s.pc + 1, bnk := false, vsk := true }) ∧
    (s.vsk = false ∨ s.conf.vskip = false →
      exec (.lai i) s =
        .next { s with ac := i, zf := decide (i = 0), pc := s.pc + 1, bnk := false, vsk := s.conf.vskip } ∧
      exec .cla s = .next { s with ac := 0, zf := true, pc := s.pc + 1, bnk := false, vsk := s.conf.vskip })

/-- R192, R193, R272, R274, R286, R287, R291, R292: the immediates and 8-bit pair transfers whose codes are completed
(log 9): E is the high word. -/
def Obligations.PairTransfers : Prop :=
  ∀ (s : State) (i : Nibble), s.RoomForNpc 2 →
    exec (.lhi i) s = .next (.ended 2 { s with dph := i }) ∧
    exec (.lli i) s = .next (.ended 2 { s with dpl := i }) ∧
    exec .wttm1 s = .next (.ended 2 { s with t1ra := BitVec.ofNat 8 (16 * s.e.toNat + s.ac.toNat) }) ∧
    exec .wtsp s = .next (.ended 2 { s with sp := BitVec.ofNat 8 (16 * s.e.toNat + s.ac.toNat) }) ∧
    exec .wtsio s = .next (.ended 2 { s with sio := BitVec.ofNat 8 (16 * s.e.toNat + s.ac.toNat) }) ∧
    exec .rtim1 s =
      .next (.ended 2 { s with e := BitVec.ofNat 4 (s.t1c.toNat / 16), ac := BitVec.ofNat 4 s.t1c.toNat }) ∧
    exec .rsp s = .next (.ended 2 { s with e := BitVec.ofNat 4 (s.sp.toNat / 16), ac := BitVec.ofNat 4 s.sp.toNat }) ∧
    exec .rsio s = .next (.ended 2 { s with e := BitVec.ofNat 4 (s.sio.toNat / 16), ac := BitVec.ofNat 4 s.sio.toNat })

/-! ### Memory: rules that rest on the spec's readings -/

/-- R36, R50, R66: the address of a data-memory operand (log 14), and where an instruction stops: after BANK where the
rule is `none`, and on reading a word that nothing has written (log 3). IPM reads its port first, after BANK a control
register that CR_MAP must give (log 21); the instructions on M2(HL) need an even HL first (log 43). -/
def Obligations.DataMemoryOperands : Prop :=
  ∀ s : State,
    (∀ a8 : Byte,
      (s.conf.dataBankRule = .byPrefix → s.dataAddr a8 = some (BitVec.ofNat 9 (256 * s.bnk.toNat + a8.toNat))) ∧
      (s.conf.dataBankRule = .none → s.bnk = false → s.dataAddr a8 = some (BitVec.ofNat 9 a8.toNat)) ∧
      (s.conf.dataBankRule = .none → s.bnk = true → s.dataAddr a8 = none)) ∧
    (s.dataAddr s.hl = none → exec .s s = .fault .bankPrefixOnMemoryOperand ∧
      (∀ v, s.crRead s.dpl = some v → exec .ipm s = .fault .bankPrefixOnMemoryOperand) ∧
      (s.dpl.getLsbD 0 = false → ∀ i ∈ [.lae, .sae, .wttm0, .rtim0], exec i s = .fault .bankPrefixOnMemoryOperand)) ∧
    (∀ (a8 : Byte) (t : BitVec 2) (p : Byte) (i : Instr),
      ((a8 = s.hl ∧ i ∈ [.im, .dm, .smb t, .rmb t, .ad, .adc, .subc, .anda, .ora, .exl, .andm, .orm, .cm, .cmb t,
          .la .hl, .laI .hl, .laD .hl, .xa .hl, .xaI .hl, .xaD .hl, .opm, .bm t p, .bnm t p]) ∨
        (a8 = s.xy ∧ i ∈ [.la .xy, .laI .xy, .laD .xy, .xa .xy, .xaI .xy, .xaD .xy]) ∨
        i ∈ [.imdr a8, .dmdr a8, .addr a8, .ladr a8, .xadr a8]) →
      (s.dataAddr a8 = none → exec i s = .fault .bankPrefixOnMemoryOperand) ∧
      (∀ a, s.dataAddr a8 = some a → ramRead s.ram a = none → exec i s = .fault .readOfUnwrittenState))

/-- R141 to R144: increment and decrement of a memory word, CF of a decrement by DEC_CF (log 12). -/
def Obligations.MemoryIncrementsAndDecrements : Prop :=
  ∀ (s : State) (a : RamAddr) (m : Nibble), ramRead s.ram a = some m →
    (s.dataAddr s.hl = some a → s.RoomForNpc 1 →
      (∃ r, exec .im s = .next (.ended 1 { s with ram := r, cf := decide (m = 15), zf := decide (m = 15) }) ∧
        OnlyStored s.ram r [(a, BitVec.ofNat 4 (m.toNat + 1))]) ∧
      (∃ r, exec .dm s = .next (.ended 1 { s with ram := r, cf := decide ((s.conf.decCf = .borrowInverted) ↔ m ≠ 0),
                                                  zf := decide (m = 1) }) ∧
        OnlyStored s.ram r [(a, BitVec.ofNat 4 (m.toNat + 15))])) ∧
    (∀ i8, s.dataAddr i8 = some a → s.RoomForNpc 2 →
      (∃ r, exec (.imdr i8) s = .next (.ended 2 { s with ram := r, cf := decide (m = 15), zf := decide (m = 15) }) ∧
        OnlyStored s.ram r [(a, BitVec.ofNat 4 (m.toNat + 1))]) ∧
      (∃ r, exec (.dmdr i8) s =
          .next (.ended 2 { s with ram := r, cf := decide ((s.conf.decCf = .borrowInverted) ↔ m ≠ 0),
                                   zf := decide (m = 1) }) ∧
        OnlyStored s.ram r [(a, BitVec.ofNat 4 (m.toNat + 15))]))

/-- R146, R160, R161: RMB, ANDM and ORM write one word, AC keeps its value, ZF is set from the word written (log 38). -/
def Obligations.MemoryLogic : Prop :=
  ∀ (s : State) (a : RamAddr) (m : Nibble) (t : BitVec 2), s.dataAddr s.hl = some a → ramRead s.ram a = some m →
    s.RoomForNpc 1 →
    (∃ r, exec (.rmb t) s =
        .next (.ended 1 { s with ram := r, zf := decide (m &&& ~~~((1 : Nibble) <<< t.toNat) = 0) }) ∧
      OnlyStored s.ram r [(a, m &&& ~~~((1 : Nibble) <<< t.toNat))]) ∧
    (∃ r, exec .andm s = .next (.ended 1 { s with ram := r, zf := decide (s.ac &&& m = 0) }) ∧
      OnlyStored s.ram r [(a, s.ac &&& m)]) ∧
    (∃ r, exec .orm s = .next (.ended 1 { s with ram := r, zf := decide (s.ac ||| m = 0) }) ∧
      OnlyStored s.ram r [(a, s.ac ||| m)])

/-- R150, R152 to R154, R156: sums with a memory word; SUBC is memory minus AC, its borrow in by SUBC_CIN (log 11). -/
def Obligations.MemoryArithmetic : Prop :=
  ∀ (s : State) (a : RamAddr) (m : Nibble), ramRead s.ram a = some m →
    (s.dataAddr s.hl = some a → s.RoomForNpc 1 →
      exec .ad s = .next (.ended 1 { s with ac := BitVec.ofNat 4 (s.ac.toNat + m.toNat),
                                            cf := decide (16 ≤ s.ac.toNat + m.toNat),
                                            zf := decide ((s.ac.toNat + m.toNat) % 16 = 0) }) ∧
      exec .adc s = .next (.ended 1 { s with ac := BitVec.ofNat 4 (s.ac.toNat + m.toNat + s.cf.toNat),
                                             cf := decide (16 ≤ s.ac.toNat + m.toNat + s.cf.toNat),
                                             zf := decide ((s.ac.toNat + m.toNat + s.cf.toNat) % 16 = 0) }) ∧
      ∀ borrow : Nat, borrow = (if s.conf.subcCin = .inverted then 1 - s.cf.toNat else s.cf.toNat) →
        exec .subc s =
          .next (.ended 1 { s with ac := BitVec.ofNat 4 (16 + m.toNat - (s.ac.toNat + borrow)),
                                   cf := decide (s.ac.toNat + borrow ≤ m.toNat),
                                   zf := decide ((16 + m.toNat - (s.ac.toNat + borrow)) % 16 = 0) })) ∧
    (∀ i8, s.dataAddr i8 = some a → s.RoomForNpc 2 →
      exec (.addr i8) s = .next (.ended 2 { s with ac := BitVec.ofNat 4 (s.ac.toNat + m.toNat),
                                                   cf := decide (16 ≤ s.ac.toNat + m.toNat),
                                                   zf := decide ((s.ac.toNat + m.toNat) % 16 = 0) }))

/-- R157 to R159, R173, R176: logic into AC and loads of AC, ZF from AC (log 38). -/
def Obligations.AccumulatorLogicAndLoads : Prop :=
  ∀ (s : State) (a : RamAddr) (m : Nibble), ramRead s.ram a = some m →
    (s.dataAddr s.hl = some a → s.RoomForNpc 1 →
      exec .anda s = .next (.ended 1 { s with ac := s.ac &&& m, zf := decide (s.ac &&& m = 0) }) ∧
      exec .ora s = .next (.ended 1 { s with ac := s.ac ||| m, zf := decide (s.ac ||| m = 0) }) ∧
      exec .exl s = .next (.ended 1 { s with ac := s.ac ^^^ m, zf := decide (s.ac = m) }) ∧
      exec (.la .hl) s = .next (.ended 1 { s with ac := m, zf := decide (m = 0) })) ∧
    (s.dataAddr s.xy = some a → s.RoomForNpc 1 →
      exec (.la .xy) s = .next (.ended 1 { s with ac := m, zf := decide (m = 0) })) ∧
    (∀ i8, s.dataAddr i8 = some a → s.RoomForNpc 2 →
      exec (.ladr i8) s = .next (.ended 2 { s with ac := m, zf := decide (m = 0) }))

/-- R163 to R165: the comparisons on page CFH (codes completed: log 9): CI by magnitude, CLI and CMB for equality. -/
def Obligations.ImmediateAndBitComparisons : Prop :=
  ∀ (s : State) (i : Nibble), s.RoomForNpc 2 →
    exec (.ci i) s = .next (.ended 2 { s with cf := decide (i.toNat ≤ s.ac.toNat), zf := decide (i = s.ac) }) ∧
    exec (.cli i) s = .next (.ended 2 { s with zf := decide (s.dpl = i) }) ∧
    ∀ (a : RamAddr) (m : Nibble) (t : BitVec 2), s.dataAddr s.hl = some a → ramRead s.ram a = some m →
      exec (.cmb t) s = .next (.ended 2 { s with zf := decide (s.ac.getLsbD t.toNat = m.getLsbD t.toNat) })

/-- R65, R172, R175, R271, R273: the instructions on M2(HL): both words at an even HL, T0_ORDER for the timer (log 16),
Undefined at an odd HL (log 32). RTIM0 reads the counter, WTTM0 writes the reload register. LAE and WTTM0 stop where one
of the words has no value (R50). -/
def Obligations.TwoWordOperands : Prop :=
  ∀ s : State,
    (s.dpl.getLsbD 0 = true →
      exec .lae s = .fault .m2OddAddress ∧ exec .sae s = .fault .m2OddAddress ∧
      exec .wttm0 s = .fault .m2OddAddress ∧ exec .rtim0 s = .fault .m2OddAddress) ∧
    (∀ lo hi : RamAddr, s.dpl.getLsbD 0 = false → s.dataAddr s.hl = some lo → s.dataAddr (s.hl + 1) = some hi →
      ramRead s.ram lo = none ∨ ramRead s.ram hi = none →
      exec .lae s = .fault .readOfUnwrittenState ∧ exec .wttm0 s = .fault .readOfUnwrittenState) ∧
    (∀ lo hi : RamAddr, s.dpl.getLsbD 0 = false → s.dataAddr s.hl = some lo → s.dataAddr (s.hl + 1) = some hi →
      s.RoomForNpc 1 →
      (∃ r, exec .sae s = .next (.ended 1 { s with ram := r }) ∧ OnlyStored s.ram r [(lo, s.ac), (hi, s.e)]) ∧
      (∃ r, exec .rtim0 s = .next (.ended 1 { s with ram := r, ac := BitVec.ofNat 4 s.t0c.toNat }) ∧
        OnlyStored s.ram r
          [(hi, BitVec.ofNat 4 (s.t0c.toNat / 256)), (lo, BitVec.ofNat 4 (s.t0c.toNat / 16))]) ∧
      (∀ v w : Nibble, ramRead s.ram lo = some v → ramRead s.ram hi = some w →
        exec .lae s = .next (.ended 1 { s with ac := v, e := w }) ∧
        exec .wttm0 s =
          .next (.ended 1 { s with t0r := BitVec.ofNat 12 (256 * w.toNat + 16 * v.toNat + s.ac.toNat) })))

/-- R62, R184, R185: table reads: the byte at E:AC in the page; RTBL to E and AC, RTBLP to ports 4 and 5 (log 33);
Undefined in the last byte of a page (log 31) and where ROM gives no byte. -/
def Obligations.TableReads : Prop :=
  ∀ s : State,
    (¬ s.RoomInPage 1 → exec .rtbl s = .fault .pageBoundaryTransfer ∧ exec .rtblp s = .fault .pageBoundaryTransfer) ∧
    (s.RoomInPage 1 →
      (∀ b, romRead s (s.pageAddr (s.e ++ s.ac : Byte)) = .ok b →
        exec .rtbl s =
          .next (.ended 1 { s with e := BitVec.ofNat 4 (b.toNat / 16), ac := BitVec.ofNat 4 (b.toNat % 16) }) ∧
        (s.bnk = false →
          exec .rtblp s =
            .next (.ended 1 { s with pl := (s.pl.set 4 (BitVec.ofNat 4 (b.toNat / 16))).set 5
                                             (BitVec.ofNat 4 (b.toNat % 16)) }))) ∧
      (∀ f, romRead s (s.pageAddr (s.e ++ s.ac : Byte)) = .error f →
        exec .rtbl s = .fault f ∧ exec .rtblp s = .fault f))

/-! ### User flags, jumps, the stack and branches -/

/-- R217: RFB clears the one flag; ZF afterwards is whatever it is (log 17), and nothing else changes. -/
def Obligations.ResetUserFlag : Prop :=
  ∀ (s : State) (n : Nibble), s.RoomForNpc 1 →
    ∃ (f : Vector Bool 16) (z : Bool),
      exec (.rfb n) s = .next (.ended 1 { s with uf := f, zf := z, draws := s.draws + 1 }) ∧
      f[n.toNat] = false ∧ ∀ m : Nibble, m ≠ n → f[m.toNat] = s.uf[m.toNat]

/-- R7, R221, R224, R225, R296: JMP in the bank, or after BANK to the other (log 42), Undefined where NPC lies in another
bank or reaches ROM_SIZE (log 30); JPEA in the page, Undefined in its
last byte (log 31); BANK only sets the prefix; SB records a bank that the part has (log 22), Undefined for another. -/
def Obligations.JumpsAndBank : Prop :=
  ∀ s : State,
    (∀ a : BitVec 12,
      (s.RoomForNpc 2 → exec (.jmp a) s =
        .next (.wentTo (BitVec.ofBool (if s.bnk then !s.pc.getLsbD 12 else s.pc.getLsbD 12) ++ a : RomAddr) s)) ∧
      (¬ s.RoomForNpc 2 → exec (.jmp a) s = .fault .pcOutOfBankOrRom)) ∧
    (s.RoomInPage 1 → exec .jpea s = .next (.wentTo (s.pageAddr (s.e ++ s.ac : Byte)) s)) ∧
    (¬ s.RoomInPage 1 → exec .jpea s = .fault .pageBoundaryTransfer) ∧
    (s.RoomForNpc 1 → exec .bank s = .next { s with pc := s.pc + 1, bnk := true, vsk := false }) ∧
    (¬ s.RoomForNpc 1 → exec .bank s = .fault .pcOutOfBankOrRom) ∧
    (∀ i : BitVec 2,
      (i.toNat < (if s.conf.part = .lc66354b then 1 else 2) → s.RoomForNpc 2 →
        exec (.sb i) s = .next (.ended 2 { s with sbr := i })) ∧
      ((if s.conf.part = .lc66354b then 1 else 2) ≤ i.toNat → exec (.sb i) s = .fault .sbBankAbsent))

/-- R222, R223: a call stores the frame CF:ZF:0:NPC at M4(SP), low word first (log 15), subtracts 4 from SP and goes to
bank 0; Undefined where NPC lies in another bank or reaches ROM_SIZE (log 30). -/
def Obligations.CallsStoreFrame : Prop :=
  ∀ s : State,
    (∀ a : BitVec 11,
      (s.RoomForNpc 2 →
        ∃ r, exec (.cal a) s = .next (.wentTo (BitVec.ofNat 13 a.toNat) { s with ram := r, sp := s.sp - 4 }) ∧
          OnlyStored s.ram r (s.frameCells (frameOf s.cf s.zf (s.pc + 2)))) ∧
      (¬ s.RoomForNpc 2 → exec (.cal a) s = .fault .pcOutOfBankOrRom)) ∧
    (∀ p : Nibble,
      (s.RoomForNpc 1 →
        ∃ r, exec (.czp p) s = .next (.wentTo (BitVec.ofNat 13 (4 * p.toNat)) { s with ram := r, sp := s.sp - 4 }) ∧
          OnlyStored s.ram r (s.frameCells (frameOf s.cf s.zf (s.pc + 1)))) ∧
      (¬ s.RoomForNpc 1 → exec (.czp p) s = .fault .pcOutOfBankOrRom))

/-- R226: PUSH stores the pair, low word at SP (log 15), then subtracts 2 from SP. -/
def Obligations.PushStoresPair : Prop :=
  ∀ s : State, s.RoomForNpc 2 →
    (∃ r, exec (.push .hl) s = .next (.ended 2 { s with ram := r, sp := s.sp - 2 }) ∧
      OnlyStored s.ram r [(s.stackAddr 0, s.dpl), (s.stackAddr 1, s.dph)]) ∧
    (∃ r, exec (.push .xy) s = .next (.ended 2 { s with ram := r, sp := s.sp - 2 }) ∧
      OnlyStored s.ram r [(s.stackAddr 0, s.dpy), (s.stackAddr 1, s.dpx)]) ∧
    (∃ r, exec (.push .ae) s = .next (.ended 2 { s with ram := r, sp := s.sp - 2 }) ∧
      OnlyStored s.ram r [(s.stackAddr 0, s.ac), (s.stackAddr 1, s.e)])

/-- R227, R230, R231, R308: POP, RT and RTI add to SP and then load; a word without a value is a fault (log 3). -/
def Obligations.PopsAndReturnsLoad : Prop :=
  ∀ s : State,
    (∀ lo hi : Nibble, ramRead s.ram (s.stackAddr 2) = some lo → ramRead s.ram (s.stackAddr 3) = some hi →
      s.RoomForNpc 2 →
      exec (.pop .hl) s = .next (.ended 2 { s with dph := hi, dpl := lo, sp := s.sp + 2 }) ∧
      exec (.pop .xy) s = .next (.ended 2 { s with dpx := hi, dpy := lo, sp := s.sp + 2 }) ∧
      exec (.pop .ae) s = .next (.ended 2 { s with e := hi, ac := lo, sp := s.sp + 2 })) ∧
    (∀ r, ramRead s.ram (s.stackAddr 2) = none ∨ ramRead s.ram (s.stackAddr 3) = none →
      exec (.pop r) s = .fault .readOfUnwrittenState) ∧
    (∀ w0 w1 w2 w3 : Nibble, ramRead s.ram (s.stackAddr 4) = some w0 → ramRead s.ram (s.stackAddr 5) = some w1 →
      ramRead s.ram (s.stackAddr 6) = some w2 → ramRead s.ram (s.stackAddr 7) = some w3 →
      ∀ target : RomAddr, target = BitVec.ofNat 13 (4096 * w3.toNat + 256 * w2.toNat + 16 * w1.toNat + w0.toNat) →
        exec .rt s = .next (.wentTo target { s with sp := s.sp + 4 }) ∧
        exec .rti s =
          .next (.wentTo target
            { s with sp := s.sp + 4, cf := decide (8 ≤ w3.toNat), zf := decide (4 ≤ w3.toNat % 8),
                     mse := s.conf.entryEffects.rtiSetsMaster || s.mse })) ∧
    (ramRead s.ram (s.stackAddr 4) = none ∨ ramRead s.ram (s.stackAddr 5) = none ∨
        ramRead s.ram (s.stackAddr 6) = none ∨ ramRead s.ram (s.stackAddr 7) = none →
      exec .rt s = .fault .readOfUnwrittenState ∧ exec .rti s = .fault .readOfUnwrittenState)

/-- R235 to R237, R242 to R247: the branches on AC, CF, ZF and the user flags: where they go, that they write nothing,
and the page end (log 31). -/
def Obligations.BranchesOnRegistersAndFlags : Prop :=
  ∀ (s : State) (t : BitVec 2) (n : Nibble) (p : Byte),
    Branches (.ba t p) s s (s.ac.getLsbD t.toNat) p ∧ Branches (.bna t p) s s (!s.ac.getLsbD t.toNat) p ∧
    Branches (.bc p) s s s.cf p ∧ Branches (.bnc p) s s (!s.cf) p ∧
    Branches (.bz p) s s s.zf p ∧ Branches (.bnz p) s s (!s.zf) p ∧
    Branches (.bf n p) s s s.uf[n.toNat] p ∧ Branches (.bnf n p) s s (!s.uf[n.toNat]) p

/-- R238 to R241, R250: the branches on a memory word, on the pins of port DPL (each read draws a value: log 18), and
after BANK on an internal control register that can be read. -/
def Obligations.BranchesOnMemoryAndPorts : Prop :=
  ∀ (s : State) (t : BitVec 2) (p : Byte),
    (∀ (a : RamAddr) (m : Nibble), s.dataAddr s.hl = some a → ramRead s.ram a = some m →
      Branches (.bm t p) s s (m.getLsbD t.toNat) p ∧ Branches (.bnm t p) s s (!m.getLsbD t.toNat) p) ∧
    (s.bnk = false →
      Branches (.bp t p) s { s with draws := s.draws + 1 } ((s.pinLevels s.dpl).getLsbD t.toNat) p ∧
      Branches (.bnp t p) s { s with draws := s.draws + 1 } (!(s.pinLevels s.dpl).getLsbD t.toNat) p) ∧
    (s.bnk = true → ∀ v, s.crRead s.dpl = some v →
      Branches (.bp t p) s s (v.getLsbD t.toNat) p ∧ Branches (.bnp t p) s s (!v.getLsbD t.toNat) p)

/-! ### Ports -/

/-- R250, R253 to R257 without BANK: the inputs read the pins as the environment presents them (log 18), draw by draw. -/
def Obligations.PortInputs : Prop :=
  ∀ s : State, s.bnk = false →
    (s.RoomForNpc 1 →
      exec .ip0 s = .next (.ended 1 { s with ac := s.pinLevels 0, zf := decide (s.pinLevels 0 = 0),
                                             draws := s.draws + 1 }) ∧
      exec .ip s = .next (.ended 1 { s with ac := s.pinLevels s.dpl, zf := decide (s.pinLevels s.dpl = 0),
                                            draws := s.draws + 1 }) ∧
      ∀ a, s.dataAddr s.hl = some a →
        ∃ r, exec .ipm s = .next (.ended 1 { s with ram := r, draws := s.draws + 1 }) ∧
          OnlyStored s.ram r [(a, s.pinLevels s.dpl)]) ∧
    (s.RoomForNpc 2 →
      (∀ i : Nibble,
        exec (.ipdr i) s = .next (.ended 2 { s with ac := s.pinLevels i, zf := decide (s.pinLevels i = 0),
                                                    draws := s.draws + 1 })) ∧
      exec .ip45 s =
        .next (.ended 2 { s with e := s.pinLevels 4, ac := State.pinLevels { s with draws := s.draws + 1 } 5,
                                 draws := s.draws + 2 })) ∧
    (∀ (levels : Vector Nibble 16) (p : Nibble), s.env.pins = some levels → s.pinLevels p = levels[p.toNat])

/-- R251, R258 to R261 without BANK: the outputs write the latch of the port, P0 to P6 and PC, and no flag. -/
def Obligations.PortOutputs : Prop :=
  ∀ (s : State) (j : Fin 8), s.bnk = false →
    (s.dpl.toNat = latchPort j → s.RoomForNpc 1 →
      exec .op s = .next (.ended 1 { s with pl := s.pl.set j s.ac }) ∧
      ∀ (a : RamAddr) (m : Nibble), s.dataAddr s.hl = some a → ramRead s.ram a = some m →
        exec .opm s = .next (.ended 1 { s with pl := s.pl.set j m })) ∧
    (s.RoomForNpc 2 →
      (∀ i : Nibble, i.toNat = latchPort j → exec (.opdr i) s = .next (.ended 2 { s with pl := s.pl.set j s.ac })) ∧
      exec .op45 s = .next (.ended 2 { s with pl := (s.pl.set 4 s.e).set 5 s.ac }))

/-- R252, R262 to R265 without BANK: the read-modify-writes of a port, of its latch or, with PORT_RMW = pins, of its
pins (log 20); ZF from the value written, SPB none (log 38). -/
def Obligations.PortReadModifyWrites : Prop :=
  ∀ (s s' : State) (j : Fin 8) (old : Nibble), s.bnk = false →
    (∀ p : Nibble, p.toNat = latchPort j →
      (s.conf.portRmw = .latch ∧ old = s.pl[j] ∧ s' = s) ∨
        (s.conf.portRmw = .pins ∧ old = s.pinLevels p ∧ s' = { s with draws := s.draws + 1 }) →
      (∀ i : Nibble, s.RoomForNpc 2 →
        exec (.andpdr i p) s =
          .next (.ended 2 { s' with pl := s.pl.set j (old &&& i), zf := decide (old &&& i = 0) }) ∧
        exec (.orpdr i p) s =
          .next (.ended 2 { s' with pl := s.pl.set j (old ||| i), zf := decide (old ||| i = 0) })) ∧
      (∀ t : BitVec 2, s.dpl = p → s.RoomForNpc 1 →
        exec (.spb t) s = .next (.ended 1 { s' with pl := s.pl.set j (old ||| ((1 : Nibble) <<< t.toNat)) }) ∧
        exec (.rpb t) s =
          .next (.ended 1 { s' with pl := s.pl.set j (old &&& ~~~((1 : Nibble) <<< t.toNat)),
                                    zf := decide (old &&& ~~~((1 : Nibble) <<< t.toNat) = 0) })))

/-- R44, R250, R251 after BANK, where CR_MAP gives the access (log 21): the port instructions act on the internal
control register instead. -/
def Obligations.RegisterBankAccess : Prop :=
  ∀ s : State, s.bnk = true →
    (∀ v, s.crRead s.dpl = some v → s.RoomForNpc 1 →
      exec .ip s = .next (.ended 1 { s with ac := v, zf := decide (v = 0) }) ∧
      (∀ a, s.dataAddr s.hl = some a →
        ∃ r, exec .ipm s = .next (.ended 1 { s with ram := r }) ∧ OnlyStored s.ram r [(a, v)]) ∧
      ∀ (t : BitVec 2) (u : State),
        (s.crWrite s.dpl (v ||| ((1 : Nibble) <<< t.toNat)) = some u → exec (.spb t) s = .next (.ended 1 u)) ∧
        (s.crWrite s.dpl (v &&& ~~~((1 : Nibble) <<< t.toNat)) = some u →
          exec (.rpb t) s = .next (.ended 1 { u with zf := decide (v &&& ~~~((1 : Nibble) <<< t.toNat) = 0) }))) ∧
    (∀ v, s.crRead 0 = some v → s.RoomForNpc 1 →
      exec .ip0 s = .next (.ended 1 { s with ac := v, zf := decide (v = 0) })) ∧
    (∀ i v, s.crRead i = some v → s.RoomForNpc 2 →
      exec (.ipdr i) s = .next (.ended 2 { s with ac := v, zf := decide (v = 0) }) ∧
      ∀ m u,
        (s.crWrite i (v &&& m) = some u →
          exec (.andpdr m i) s = .next (.ended 2 { u with zf := decide (v &&& m = 0) })) ∧
        (s.crWrite i (v ||| m) = some u →
          exec (.orpdr m i) s = .next (.ended 2 { u with zf := decide (v ||| m = 0) }))) ∧
    (∀ v w, s.crRead 4 = some v → s.crRead 5 = some w → s.RoomForNpc 2 →
      exec .ip45 s = .next (.ended 2 { s with e := v, ac := w })) ∧
    (∀ u, s.crWrite s.dpl s.ac = some u → s.RoomForNpc 1 → exec .op s = .next (.ended 1 u)) ∧
    (∀ a m u, s.dataAddr s.hl = some a → ramRead s.ram a = some m → s.crWrite s.dpl m = some u → s.RoomForNpc 1 →
      exec .opm s = .next (.ended 1 u)) ∧
    (∀ i u, s.crWrite i s.ac = some u → s.RoomForNpc 2 → exec (.opdr i) s = .next (.ended 2 u)) ∧
    (∀ u u', s.crWrite 4 s.e = some u → u.crWrite 5 s.ac = some u' → s.RoomForNpc 2 →
      exec .op45 s = .next (.ended 2 u')) ∧
    (∀ b u u', s.RoomInPage 1 → romRead s (s.pageAddr (s.e ++ s.ac : Byte)) = .ok b →
      s.crWrite 4 (BitVec.ofNat 4 (b.toNat / 16)) = some u → u.crWrite 5 (BitVec.ofNat 4 (b.toNat % 16)) = some u' →
      exec .rtblp s = .next (.ended 1 u')) ∧
    (∀ n v map, s.conf.crMap = some map → map[n.toNat].bits = Vector.replicate 4 .location →
      (map[n.toNat].readable = true → s.crRead n = some s.cr[n.toNat]) ∧
      (map[n.toNat].writable = true → s.crWrite n v = some { s with cr := s.cr.set n.toNat v }))

/-- R44, R251: where a port instruction stops: a write to a port without a latch (log 19); after BANK every access when no
CR_MAP is given; and after BANK every access that the CR_MAP given does not give (log 21). The word of OPM and the table
byte of RTBLP are read first (log 43). -/
def Obligations.PortStops : Prop :=
  ∀ (s : State) (t : BitVec 2) (p : Byte) (m q : Nibble),
    (s.bnk = false → noLatch q →
      exec (.opdr q) s = .fault .writeToInputOnlyOrAbsentPort ∧
      exec (.andpdr m q) s = .fault .writeToInputOnlyOrAbsentPort ∧
      exec (.orpdr m q) s = .fault .writeToInputOnlyOrAbsentPort ∧
      (s.dpl = q →
        exec .op s = .fault .writeToInputOnlyOrAbsentPort ∧ exec (.spb t) s = .fault .writeToInputOnlyOrAbsentPort ∧
        exec (.rpb t) s = .fault .writeToInputOnlyOrAbsentPort ∧
        ∀ (a : RamAddr) (w : Nibble), s.dataAddr s.hl = some a → ramRead s.ram a = some w →
          exec .opm s = .fault .writeToInputOnlyOrAbsentPort)) ∧
    (s.bnk = true → s.conf.crMap = none →
      (∀ i ∈ [.ip0, .ip, .ipm, .ipdr q, .ip45, .op, .opdr q, .op45, .spb t, .rpb t, .andpdr m q, .orpdr m q, .bp t p,
          .bnp t p], exec i s = .fault .controlRegisterMapNotInSource) ∧
      (∀ (a : RamAddr) (w : Nibble), s.dataAddr s.hl = some a → ramRead s.ram a = some w →
        exec .opm s = .fault .controlRegisterMapNotInSource) ∧
      (∀ b, s.RoomInPage 1 → romRead s (s.pageAddr (s.e ++ s.ac : Byte)) = .ok b →
        exec .rtblp s = .fault .controlRegisterMapNotInSource)) ∧
    (s.bnk = true →
      (s.crRead s.dpl = none → ∀ i ∈ [.ip, .ipm, .spb t, .rpb t, .bp t p, .bnp t p],
        exec i s = .fault .controlRegisterMapNotInSource) ∧
      (s.crRead 0 = none → exec .ip0 s = .fault .controlRegisterMapNotInSource) ∧
      (s.crRead q = none → ∀ i ∈ [.ipdr q, .andpdr m q, .orpdr m q],
        exec i s = .fault .controlRegisterMapNotInSource) ∧
      (s.crRead 4 = none ∨ s.crRead 5 = none → exec .ip45 s = .fault .controlRegisterMapNotInSource) ∧
      (∀ v, s.crWrite s.dpl v = none →
        exec .op s = .fault .controlRegisterMapNotInSource ∧
        (∀ (a : RamAddr) (w : Nibble), s.dataAddr s.hl = some a → ramRead s.ram a = some w →
          exec .opm s = .fault .controlRegisterMapNotInSource) ∧
        exec (.spb t) s = .fault .controlRegisterMapNotInSource ∧
        exec (.rpb t) s = .fault .controlRegisterMapNotInSource) ∧
      (∀ v, s.crWrite q v = none → ∀ i ∈ [.opdr q, .andpdr m q, .orpdr m q],
        exec i s = .fault .controlRegisterMapNotInSource) ∧
      (∀ v, s.crWrite 4 v = none ∨ s.crWrite 5 v = none →
        exec .op45 s = .fault .controlRegisterMapNotInSource ∧
        ∀ b, s.RoomInPage 1 → romRead s (s.pageAddr (s.e ++ s.ac : Byte)) = .ok b →
          exec .rtblp s = .fault .controlRegisterMapNotInSource))

/-! ### Timer, interrupt, standby and serial control -/

/-- R275 to R278, R290: the run bits; nothing else is written (codes completed: log 9). -/
def Obligations.RunBits : Prop :=
  ∀ s : State, s.RoomForNpc 2 →
    exec .start0 s = .next (.ended 2 { s with t0run := true }) ∧
    exec .start1 s = .next (.ended 2 { s with t1run := true }) ∧
    exec .stop0 s = .next (.ended 2 { s with t0run := false }) ∧
    exec .stop1 s = .next (.ended 2 { s with t1run := false }) ∧
    exec .starts s = .next (.ended 2 { s with siorun := true })

/-- R280 to R285: the master enable and the two groups: EIH and EIL set the flags the mask names and write no flag
register, DIH and DIL clear them and set ZF from the whole group (log 38; codes completed: log 9). -/
def Obligations.InterruptEnables : Prop :=
  ∀ (s : State) (i : Nibble), s.RoomForNpc 2 →
    exec .mset s = .next (.ended 2 { s with mse := true }) ∧
    exec .mreset s = .next (.ended 2 { s with mse := false }) ∧
    ∃ eh el dh dl : Nibble,
      exec (.eih i) s = .next (.ended 2 { s with edih := eh }) ∧
      exec (.eil i) s = .next (.ended 2 { s with edil := el }) ∧
      exec (.dih i) s = .next (.ended 2 { s with edih := dh, zf := decide (dh = 0) }) ∧
      exec (.dil i) s = .next (.ended 2 { s with edil := dl, zf := decide (dl = 0) }) ∧
      ∀ b : Nat, b < 4 →
        eh.getLsbD b = (if i.getLsbD b then true else s.edih.getLsbD b) ∧
        el.getLsbD b = (if i.getLsbD b then true else s.edil.getLsbD b) ∧
        dh.getLsbD b = (if i.getLsbD b then false else s.edih.getLsbD b) ∧
        dl.getLsbD b = (if i.getLsbD b then false else s.edil.getLsbD b)

/-- R288, R289, R333: HALT enters HALT mode with PC at the next instruction; HOLD enters HOLD mode where P33/HOLD is low
and does nothing else where it is high (the pin is read: log 18). -/
def Obligations.StandbyEntry : Prop :=
  ∀ s : State, s.RoomForNpc 2 →
    exec .halt s = .next (.ended 2 { s with mode := .halt }) ∧
    ((s.pinLevels 3).getLsbD 3 = false →
      exec .hold s = .next (.ended 2 { s with mode := .hold, draws := s.draws + 1 })) ∧
    ((s.pinLevels 3).getLsbD 3 = true → exec .hold s = .next (.ended 2 { s with draws := s.draws + 1 }))

/-! ### Options -/

/-- R8, R9, R251: an image of the option bytes is refused exactly where an unused bit is set; and how a latch bit
drives its pin by the option (log 40, log 41). -/
def Obligations.OptionBytesAndPinDrive : Prop :=
  (∀ image : Vector Byte 8,
    optionsOfImage image = none ↔
      ¬ (image[0] &&& 0xE8 = 0 ∧ image[2] &&& 0x80 = 0 ∧ image[4] &&& 0xF0 = 0 ∧ image[5] = 0 ∧ image[6] = 0 ∧
        image[7] &&& 0xF3 = 0)) ∧
  ∀ (s : State) (j : Fin 8) (p : Nibble) (t : BitVec 2), p.toNat = latchPort j →
    (outputPins p).getLsbD t.toNat = true →
    s.pinDrive p t =
      if s.pl[j].getLsbD t.toNat = false then .low
      else if s.conf.options.pullUp[j].getLsbD t.toNat then .high else .floating

end
end

