-- ==== Sys2Proof/Laws/Encoding.lean ====
section
/-! SUPPORT. The fields of an encoded byte, the second-byte pages, and a lookup in a table whose keys differ, for proofs
about decoding. -/

namespace Sys2Proof

@[simp] theorem hiNibble_append (a b : Nibble) : hiNibble (a ++ b : Byte) = a := by
  revert a b
  decide

@[simp] theorem loNibble_append (a b : Nibble) : loNibble (a ++ b : Byte) = b := by
  revert a b
  decide

@[simp] theorem hiNibble_append_loNibble (b : Byte) : (hiNibble b ++ loNibble b : Byte) = b := by
  revert b
  decide

/-! ### Fields of a byte -/

@[simp] theorem extract_top6_append (a : BitVec 6) (t : BitVec 2) : (a ++ t : Byte).extractLsb' 2 6 = a := by
  revert a t
  decide

@[simp] theorem extract_low2_append (a : BitVec 6) (t : BitVec 2) : (a ++ t : Byte).extractLsb' 0 2 = t := by
  revert a t
  decide

@[simp] theorem top6_append_low2 (b : Byte) : (b.extractLsb' 2 6 ++ b.extractLsb' 0 2 : Byte) = b := by
  revert b
  decide

@[simp] theorem portFields_portByte (high : Bool) (i p : Nibble) : portFields high (portByte high i p) = (i, p) := by
  cases high <;> simp [portFields, portByte]

@[simp] theorem portByte_portFields (high : Bool) (b : Byte) :
    portByte high (portFields high b).1 (portFields high b).2 = b := by
  cases high <;> simp [portFields, portByte]

/-! ### The second-byte pages -/

theorem instrLength_prefixByte (p : Page) : instrLength p.prefixByte = some 2 := by
  cases p <;> rfl

@[simp] theorem PageCode.withBit_top6 (c : PageCode) (t : BitVec 2) : (c.withBit t).top6 = c.top6 := by
  simp [PageCode.withBit, PageCode.top6]

@[simp] theorem PageCode.withImmediate_top4 (c : PageCode) (i : Nibble) : (c.withImmediate i).top4 = c.top4 := by
  simp [PageCode.withImmediate, PageCode.top4]

/-- The decoder reads a place of a page from its two bytes. -/
theorem decode2_page (e : Enc2) (c : PageCode) : decode2 e c.page.prefixByte c.byte = e.decodePage c := by
  obtain ⟨p, b⟩ := c
  cases p <;> simp [decode2, decodeC, Page.prefixByte, hiNibble, loNibble]

/-! ### Tables -/

theorem mem_of_lookup_eq_some {α β : Type} [BEq α] [LawfulBEq α] {l : List (α × β)} {k : α} {v : β}
    (h : l.lookup k = some v) : (k, v) ∈ l := by
  induction l with
  | nil => simp at h
  | cons c rest ih =>
    obtain ⟨a, w⟩ := c
    rw [List.lookup_cons] at h
    split at h
    · rename_i he
      simp_all
    · simp [ih h]

theorem lookup_eq_some_of_mem {α β : Type} [BEq α] [LawfulBEq α] {l : List (α × β)} {k : α} {v : β}
    (hn : (l.map Prod.fst).Nodup) (h : (k, v) ∈ l) : l.lookup k = some v := by
  induction l with
  | nil => simp at h
  | cons c rest ih =>
    obtain ⟨a, w⟩ := c
    simp only [List.map_cons, List.nodup_cons] at hn
    rw [List.lookup_cons]
    rcases List.mem_cons.1 h with he | hr
    · injection he with h1 h2
      subst h1 h2
      simp
    · have hne : k ≠ a := fun he => hn.1 (he ▸ List.mem_map_of_mem (f := Prod.fst) hr)
      simp [beq_false_of_ne hne, ih hn.2 hr]

end Sys2Proof
end

