-- ==== Sys2Proof/Laws/Memory.lean ====
section
/-! SUPPORT. The laws of the memories: a read after a write, and every operation keeps the canonical form. -/

namespace Sys2Proof

theorem Memory.read_write_same (m : Memory) (k : Nat) (v : Byte) : (m.write k v).read k = some v := by
  induction m with
  | nil => simp [Memory.write, Memory.read]
  | cons c rest ih =>
    obtain ⟨a, w⟩ := c
    unfold Memory.write
    split
    · simp [Memory.read]
    · split
      · simp [Memory.read]
      · rename_i h
        simp [Memory.read, Ne.symm h, ih]

theorem Memory.read_write_other (m : Memory) (k j : Nat) (v : Byte) (h : j ≠ k) :
    (m.write k v).read j = m.read j := by
  induction m with
  | nil => simp [Memory.write, Memory.read, Ne.symm h]
  | cons c rest ih =>
    obtain ⟨a, w⟩ := c
    unfold Memory.write
    split
    · simp [Memory.read, Ne.symm h]
    · split
      · rename_i hk
        subst hk
        simp [Memory.read, Ne.symm h]
      · simp [Memory.read, ih]

theorem Memory.risingFrom_write (m : Memory) (lo k : Nat) (v : Byte) (hm : m.risingFrom lo = true) (hk : lo ≤ k) :
    (m.write k v).risingFrom lo = true := by
  induction m generalizing lo with
  | nil => simp [Memory.write, Memory.risingFrom, hk]
  | cons c rest ih =>
    obtain ⟨a, w⟩ := c
    simp only [Memory.risingFrom, Bool.and_eq_true, decide_eq_true_eq] at hm
    unfold Memory.write
    split
    · rename_i h
      simp only [Memory.risingFrom, Bool.and_eq_true, decide_eq_true_eq]
      exact ⟨hk, h, hm.2⟩
    · split
      · rename_i h
        subst h
        simpa [Memory.risingFrom] using hm
      · rename_i h h'
        simp only [Memory.risingFrom, Bool.and_eq_true, decide_eq_true_eq]
        exact ⟨hm.1, ih (a + 1) hm.2 (by omega)⟩

theorem Memory.write_wf (m : Memory) (k : Nat) (v : Byte) (hm : m.wf = true) : (m.write k v).wf = true :=
  Memory.risingFrom_write m 0 k v hm (Nat.zero_le k)

theorem Memory.all_write (p : Host.Cell → Bool) (m : Memory) (k : Nat) (v : Byte) (hm : m.all p = true)
    (hp : p (k, v) = true) : (m.write k v).all p = true := by
  induction m with
  | nil => simp [Memory.write, hp]
  | cons c rest ih =>
    obtain ⟨a, w⟩ := c
    simp only [List.all_cons, Bool.and_eq_true] at hm
    unfold Memory.write
    split
    · simp [hp, hm.1, hm.2]
    · split
      · simp [hp, hm.2]
      · simp [hm.1, ih hm.2]

theorem Memory.romWf_write (size : Nat) (m : Memory) (k : Nat) (v : Byte) (hm : m.romWf size = true) (hk : k < size) :
    (m.write k v).romWf size = true := by
  simp only [Memory.romWf, Bool.and_eq_true] at hm ⊢
  exact ⟨Memory.write_wf m k v hm.1, Memory.all_write _ m k v hm.2 (by simpa using hk)⟩

namespace Machine

/-- A RAM write keeps the canonical form of data memory. -/
theorem ramWrite_ramWf (m : Memory) (a : RamAddr) (v : Nibble) (hm : m.ramWf = true) :
    (ramWrite m a v).ramWf = true := by
  simp only [Memory.ramWf, Bool.and_eq_true] at hm ⊢
  refine ⟨Memory.write_wf m _ _ hm.1, Memory.all_write _ m _ _ hm.2 ?_⟩
  have h1 : a.toNat < 512 := a.isLt
  have h2 : v.toNat % 256 < 16 := by
    rw [Nat.mod_eq_of_lt (Nat.lt_trans v.isLt (by decide))]
    exact v.isLt
  simp [h1, h2]

theorem loNibble_setWidth (v : Nibble) : loNibble (v.setWidth 8) = v := by
  revert v
  decide

@[simp] theorem ramRead_ramWrite_same (m : Memory) (a : RamAddr) (v : Nibble) : ramRead (ramWrite m a v) a = some v := by
  simp [ramRead, ramWrite, Memory.read_write_same, loNibble_setWidth]

theorem ramRead_ramWrite_other (m : Memory) (a b : RamAddr) (v : Nibble) (h : b ≠ a) :
    ramRead (ramWrite m a v) b = ramRead m b := by
  have : b.toNat ≠ a.toNat := fun e => h (BitVec.eq_of_toNat_eq e)
  simp [ramRead, ramWrite, Memory.read_write_other _ _ _ _ this]

/-- Reset lists no RAM word and no ROM byte: both memories have their canonical form. -/
theorem resetOf_memories_wf (c : Conf) :
    (State.resetOf c).ram.ramWf = true ∧ (State.resetOf c).rom.romWf c.part.romSize = true := ⟨rfl, rfl⟩

end Machine

end Sys2Proof
end

