-- ==== Sys2Proof/Laws/State.lean ====
section
/-! SUPPORT. One lemma for each field of State and each named update: what the field is afterwards. All are true by
computation and tagged simp, so that no proof unfolds an update of the record. -/

namespace Sys2Proof.Machine

variable (s : State)

/-! ### `setAcZ` -/

@[simp] theorem State.setAcZ_ac (r : Nibble) : (s.setAcZ r).ac = r := rfl
@[simp] theorem State.setAcZ_e (r : Nibble) : (s.setAcZ r).e = s.e := rfl
@[simp] theorem State.setAcZ_dph (r : Nibble) : (s.setAcZ r).dph = s.dph := rfl
@[simp] theorem State.setAcZ_dpl (r : Nibble) : (s.setAcZ r).dpl = s.dpl := rfl
@[simp] theorem State.setAcZ_dpx (r : Nibble) : (s.setAcZ r).dpx = s.dpx := rfl
@[simp] theorem State.setAcZ_dpy (r : Nibble) : (s.setAcZ r).dpy = s.dpy := rfl
@[simp] theorem State.setAcZ_sp (r : Nibble) : (s.setAcZ r).sp = s.sp := rfl
@[simp] theorem State.setAcZ_pc (r : Nibble) : (s.setAcZ r).pc = s.pc := rfl
@[simp] theorem State.setAcZ_cf (r : Nibble) : (s.setAcZ r).cf = s.cf := rfl
@[simp] theorem State.setAcZ_zf (r : Nibble) : (s.setAcZ r).zf = isZero r := rfl
@[simp] theorem State.setAcZ_uf (r : Nibble) : (s.setAcZ r).uf = s.uf := rfl
@[simp] theorem State.setAcZ_mse (r : Nibble) : (s.setAcZ r).mse = s.mse := rfl
@[simp] theorem State.setAcZ_edih (r : Nibble) : (s.setAcZ r).edih = s.edih := rfl
@[simp] theorem State.setAcZ_edil (r : Nibble) : (s.setAcZ r).edil = s.edil := rfl
@[simp] theorem State.setAcZ_irq (r : Nibble) : (s.setAcZ r).irq = s.irq := rfl
@[simp] theorem State.setAcZ_mode (r : Nibble) : (s.setAcZ r).mode = s.mode := rfl
@[simp] theorem State.setAcZ_bnk (r : Nibble) : (s.setAcZ r).bnk = s.bnk := rfl
@[simp] theorem State.setAcZ_vsk (r : Nibble) : (s.setAcZ r).vsk = s.vsk := rfl
@[simp] theorem State.setAcZ_sbr (r : Nibble) : (s.setAcZ r).sbr = s.sbr := rfl
@[simp] theorem State.setAcZ_t0r (r : Nibble) : (s.setAcZ r).t0r = s.t0r := rfl
@[simp] theorem State.setAcZ_t0c (r : Nibble) : (s.setAcZ r).t0c = s.t0c := rfl
@[simp] theorem State.setAcZ_t0run (r : Nibble) : (s.setAcZ r).t0run = s.t0run := rfl
@[simp] theorem State.setAcZ_t1ra (r : Nibble) : (s.setAcZ r).t1ra = s.t1ra := rfl
@[simp] theorem State.setAcZ_t1rb (r : Nibble) : (s.setAcZ r).t1rb = s.t1rb := rfl
@[simp] theorem State.setAcZ_t1c (r : Nibble) : (s.setAcZ r).t1c = s.t1c := rfl
@[simp] theorem State.setAcZ_t1run (r : Nibble) : (s.setAcZ r).t1run = s.t1run := rfl
@[simp] theorem State.setAcZ_prescaler (r : Nibble) : (s.setAcZ r).prescaler = s.prescaler := rfl
@[simp] theorem State.setAcZ_sio (r : Nibble) : (s.setAcZ r).sio = s.sio := rfl
@[simp] theorem State.setAcZ_sio2 (r : Nibble) : (s.setAcZ r).sio2 = s.sio2 := rfl
@[simp] theorem State.setAcZ_siorun (r : Nibble) : (s.setAcZ r).siorun = s.siorun := rfl
@[simp] theorem State.setAcZ_pl (r : Nibble) : (s.setAcZ r).pl = s.pl := rfl
@[simp] theorem State.setAcZ_inputModes (r : Nibble) : (s.setAcZ r).inputModes = s.inputModes := rfl
@[simp] theorem State.setAcZ_cr (r : Nibble) : (s.setAcZ r).cr = s.cr := rfl
@[simp] theorem State.setAcZ_ram (r : Nibble) : (s.setAcZ r).ram = s.ram := rfl
@[simp] theorem State.setAcZ_rom (r : Nibble) : (s.setAcZ r).rom = s.rom := rfl
@[simp] theorem State.setAcZ_conf (r : Nibble) : (s.setAcZ r).conf = s.conf := rfl
@[simp] theorem State.setAcZ_env (r : Nibble) : (s.setAcZ r).env = s.env := rfl
@[simp] theorem State.setAcZ_draws (r : Nibble) : (s.setAcZ r).draws = s.draws := rfl

/-! ### `setAcCZ` -/

@[simp] theorem State.setAcCZ_ac (rc : Nibble × Bool) : (s.setAcCZ rc).ac = rc.1 := rfl
@[simp] theorem State.setAcCZ_e (rc : Nibble × Bool) : (s.setAcCZ rc).e = s.e := rfl
@[simp] theorem State.setAcCZ_dph (rc : Nibble × Bool) : (s.setAcCZ rc).dph = s.dph := rfl
@[simp] theorem State.setAcCZ_dpl (rc : Nibble × Bool) : (s.setAcCZ rc).dpl = s.dpl := rfl
@[simp] theorem State.setAcCZ_dpx (rc : Nibble × Bool) : (s.setAcCZ rc).dpx = s.dpx := rfl
@[simp] theorem State.setAcCZ_dpy (rc : Nibble × Bool) : (s.setAcCZ rc).dpy = s.dpy := rfl
@[simp] theorem State.setAcCZ_sp (rc : Nibble × Bool) : (s.setAcCZ rc).sp = s.sp := rfl
@[simp] theorem State.setAcCZ_pc (rc : Nibble × Bool) : (s.setAcCZ rc).pc = s.pc := rfl
@[simp] theorem State.setAcCZ_cf (rc : Nibble × Bool) : (s.setAcCZ rc).cf = rc.2 := rfl
@[simp] theorem State.setAcCZ_zf (rc : Nibble × Bool) : (s.setAcCZ rc).zf = isZero rc.1 := rfl
@[simp] theorem State.setAcCZ_uf (rc : Nibble × Bool) : (s.setAcCZ rc).uf = s.uf := rfl
@[simp] theorem State.setAcCZ_mse (rc : Nibble × Bool) : (s.setAcCZ rc).mse = s.mse := rfl
@[simp] theorem State.setAcCZ_edih (rc : Nibble × Bool) : (s.setAcCZ rc).edih = s.edih := rfl
@[simp] theorem State.setAcCZ_edil (rc : Nibble × Bool) : (s.setAcCZ rc).edil = s.edil := rfl
@[simp] theorem State.setAcCZ_irq (rc : Nibble × Bool) : (s.setAcCZ rc).irq = s.irq := rfl
@[simp] theorem State.setAcCZ_mode (rc : Nibble × Bool) : (s.setAcCZ rc).mode = s.mode := rfl
@[simp] theorem State.setAcCZ_bnk (rc : Nibble × Bool) : (s.setAcCZ rc).bnk = s.bnk := rfl
@[simp] theorem State.setAcCZ_vsk (rc : Nibble × Bool) : (s.setAcCZ rc).vsk = s.vsk := rfl
@[simp] theorem State.setAcCZ_sbr (rc : Nibble × Bool) : (s.setAcCZ rc).sbr = s.sbr := rfl
@[simp] theorem State.setAcCZ_t0r (rc : Nibble × Bool) : (s.setAcCZ rc).t0r = s.t0r := rfl
@[simp] theorem State.setAcCZ_t0c (rc : Nibble × Bool) : (s.setAcCZ rc).t0c = s.t0c := rfl
@[simp] theorem State.setAcCZ_t0run (rc : Nibble × Bool) : (s.setAcCZ rc).t0run = s.t0run := rfl
@[simp] theorem State.setAcCZ_t1ra (rc : Nibble × Bool) : (s.setAcCZ rc).t1ra = s.t1ra := rfl
@[simp] theorem State.setAcCZ_t1rb (rc : Nibble × Bool) : (s.setAcCZ rc).t1rb = s.t1rb := rfl
@[simp] theorem State.setAcCZ_t1c (rc : Nibble × Bool) : (s.setAcCZ rc).t1c = s.t1c := rfl
@[simp] theorem State.setAcCZ_t1run (rc : Nibble × Bool) : (s.setAcCZ rc).t1run = s.t1run := rfl
@[simp] theorem State.setAcCZ_prescaler (rc : Nibble × Bool) : (s.setAcCZ rc).prescaler = s.prescaler := rfl
@[simp] theorem State.setAcCZ_sio (rc : Nibble × Bool) : (s.setAcCZ rc).sio = s.sio := rfl
@[simp] theorem State.setAcCZ_sio2 (rc : Nibble × Bool) : (s.setAcCZ rc).sio2 = s.sio2 := rfl
@[simp] theorem State.setAcCZ_siorun (rc : Nibble × Bool) : (s.setAcCZ rc).siorun = s.siorun := rfl
@[simp] theorem State.setAcCZ_pl (rc : Nibble × Bool) : (s.setAcCZ rc).pl = s.pl := rfl
@[simp] theorem State.setAcCZ_inputModes (rc : Nibble × Bool) : (s.setAcCZ rc).inputModes = s.inputModes := rfl
@[simp] theorem State.setAcCZ_cr (rc : Nibble × Bool) : (s.setAcCZ rc).cr = s.cr := rfl
@[simp] theorem State.setAcCZ_ram (rc : Nibble × Bool) : (s.setAcCZ rc).ram = s.ram := rfl
@[simp] theorem State.setAcCZ_rom (rc : Nibble × Bool) : (s.setAcCZ rc).rom = s.rom := rfl
@[simp] theorem State.setAcCZ_conf (rc : Nibble × Bool) : (s.setAcCZ rc).conf = s.conf := rfl
@[simp] theorem State.setAcCZ_env (rc : Nibble × Bool) : (s.setAcCZ rc).env = s.env := rfl
@[simp] theorem State.setAcCZ_draws (rc : Nibble × Bool) : (s.setAcCZ rc).draws = s.draws := rfl

/-! ### `setCZ` -/

@[simp] theorem State.setCZ_ac (rc : Nibble × Bool) : (s.setCZ rc).ac = s.ac := rfl
@[simp] theorem State.setCZ_e (rc : Nibble × Bool) : (s.setCZ rc).e = s.e := rfl
@[simp] theorem State.setCZ_dph (rc : Nibble × Bool) : (s.setCZ rc).dph = s.dph := rfl
@[simp] theorem State.setCZ_dpl (rc : Nibble × Bool) : (s.setCZ rc).dpl = s.dpl := rfl
@[simp] theorem State.setCZ_dpx (rc : Nibble × Bool) : (s.setCZ rc).dpx = s.dpx := rfl
@[simp] theorem State.setCZ_dpy (rc : Nibble × Bool) : (s.setCZ rc).dpy = s.dpy := rfl
@[simp] theorem State.setCZ_sp (rc : Nibble × Bool) : (s.setCZ rc).sp = s.sp := rfl
@[simp] theorem State.setCZ_pc (rc : Nibble × Bool) : (s.setCZ rc).pc = s.pc := rfl
@[simp] theorem State.setCZ_cf (rc : Nibble × Bool) : (s.setCZ rc).cf = rc.2 := rfl
@[simp] theorem State.setCZ_zf (rc : Nibble × Bool) : (s.setCZ rc).zf = isZero rc.1 := rfl
@[simp] theorem State.setCZ_uf (rc : Nibble × Bool) : (s.setCZ rc).uf = s.uf := rfl
@[simp] theorem State.setCZ_mse (rc : Nibble × Bool) : (s.setCZ rc).mse = s.mse := rfl
@[simp] theorem State.setCZ_edih (rc : Nibble × Bool) : (s.setCZ rc).edih = s.edih := rfl
@[simp] theorem State.setCZ_edil (rc : Nibble × Bool) : (s.setCZ rc).edil = s.edil := rfl
@[simp] theorem State.setCZ_irq (rc : Nibble × Bool) : (s.setCZ rc).irq = s.irq := rfl
@[simp] theorem State.setCZ_mode (rc : Nibble × Bool) : (s.setCZ rc).mode = s.mode := rfl
@[simp] theorem State.setCZ_bnk (rc : Nibble × Bool) : (s.setCZ rc).bnk = s.bnk := rfl
@[simp] theorem State.setCZ_vsk (rc : Nibble × Bool) : (s.setCZ rc).vsk = s.vsk := rfl
@[simp] theorem State.setCZ_sbr (rc : Nibble × Bool) : (s.setCZ rc).sbr = s.sbr := rfl
@[simp] theorem State.setCZ_t0r (rc : Nibble × Bool) : (s.setCZ rc).t0r = s.t0r := rfl
@[simp] theorem State.setCZ_t0c (rc : Nibble × Bool) : (s.setCZ rc).t0c = s.t0c := rfl
@[simp] theorem State.setCZ_t0run (rc : Nibble × Bool) : (s.setCZ rc).t0run = s.t0run := rfl
@[simp] theorem State.setCZ_t1ra (rc : Nibble × Bool) : (s.setCZ rc).t1ra = s.t1ra := rfl
@[simp] theorem State.setCZ_t1rb (rc : Nibble × Bool) : (s.setCZ rc).t1rb = s.t1rb := rfl
@[simp] theorem State.setCZ_t1c (rc : Nibble × Bool) : (s.setCZ rc).t1c = s.t1c := rfl
@[simp] theorem State.setCZ_t1run (rc : Nibble × Bool) : (s.setCZ rc).t1run = s.t1run := rfl
@[simp] theorem State.setCZ_prescaler (rc : Nibble × Bool) : (s.setCZ rc).prescaler = s.prescaler := rfl
@[simp] theorem State.setCZ_sio (rc : Nibble × Bool) : (s.setCZ rc).sio = s.sio := rfl
@[simp] theorem State.setCZ_sio2 (rc : Nibble × Bool) : (s.setCZ rc).sio2 = s.sio2 := rfl
@[simp] theorem State.setCZ_siorun (rc : Nibble × Bool) : (s.setCZ rc).siorun = s.siorun := rfl
@[simp] theorem State.setCZ_pl (rc : Nibble × Bool) : (s.setCZ rc).pl = s.pl := rfl
@[simp] theorem State.setCZ_inputModes (rc : Nibble × Bool) : (s.setCZ rc).inputModes = s.inputModes := rfl
@[simp] theorem State.setCZ_cr (rc : Nibble × Bool) : (s.setCZ rc).cr = s.cr := rfl
@[simp] theorem State.setCZ_ram (rc : Nibble × Bool) : (s.setCZ rc).ram = s.ram := rfl
@[simp] theorem State.setCZ_rom (rc : Nibble × Bool) : (s.setCZ rc).rom = s.rom := rfl
@[simp] theorem State.setCZ_conf (rc : Nibble × Bool) : (s.setCZ rc).conf = s.conf := rfl
@[simp] theorem State.setCZ_env (rc : Nibble × Bool) : (s.setCZ rc).env = s.env := rfl
@[simp] theorem State.setCZ_draws (rc : Nibble × Bool) : (s.setCZ rc).draws = s.draws := rfl

/-! ### `setZ` -/

@[simp] theorem State.setZ_ac (b : Bool) : (s.setZ b).ac = s.ac := rfl
@[simp] theorem State.setZ_e (b : Bool) : (s.setZ b).e = s.e := rfl
@[simp] theorem State.setZ_dph (b : Bool) : (s.setZ b).dph = s.dph := rfl
@[simp] theorem State.setZ_dpl (b : Bool) : (s.setZ b).dpl = s.dpl := rfl
@[simp] theorem State.setZ_dpx (b : Bool) : (s.setZ b).dpx = s.dpx := rfl
@[simp] theorem State.setZ_dpy (b : Bool) : (s.setZ b).dpy = s.dpy := rfl
@[simp] theorem State.setZ_sp (b : Bool) : (s.setZ b).sp = s.sp := rfl
@[simp] theorem State.setZ_pc (b : Bool) : (s.setZ b).pc = s.pc := rfl
@[simp] theorem State.setZ_cf (b : Bool) : (s.setZ b).cf = s.cf := rfl
@[simp] theorem State.setZ_zf (b : Bool) : (s.setZ b).zf = b := rfl
@[simp] theorem State.setZ_uf (b : Bool) : (s.setZ b).uf = s.uf := rfl
@[simp] theorem State.setZ_mse (b : Bool) : (s.setZ b).mse = s.mse := rfl
@[simp] theorem State.setZ_edih (b : Bool) : (s.setZ b).edih = s.edih := rfl
@[simp] theorem State.setZ_edil (b : Bool) : (s.setZ b).edil = s.edil := rfl
@[simp] theorem State.setZ_irq (b : Bool) : (s.setZ b).irq = s.irq := rfl
@[simp] theorem State.setZ_mode (b : Bool) : (s.setZ b).mode = s.mode := rfl
@[simp] theorem State.setZ_bnk (b : Bool) : (s.setZ b).bnk = s.bnk := rfl
@[simp] theorem State.setZ_vsk (b : Bool) : (s.setZ b).vsk = s.vsk := rfl
@[simp] theorem State.setZ_sbr (b : Bool) : (s.setZ b).sbr = s.sbr := rfl
@[simp] theorem State.setZ_t0r (b : Bool) : (s.setZ b).t0r = s.t0r := rfl
@[simp] theorem State.setZ_t0c (b : Bool) : (s.setZ b).t0c = s.t0c := rfl
@[simp] theorem State.setZ_t0run (b : Bool) : (s.setZ b).t0run = s.t0run := rfl
@[simp] theorem State.setZ_t1ra (b : Bool) : (s.setZ b).t1ra = s.t1ra := rfl
@[simp] theorem State.setZ_t1rb (b : Bool) : (s.setZ b).t1rb = s.t1rb := rfl
@[simp] theorem State.setZ_t1c (b : Bool) : (s.setZ b).t1c = s.t1c := rfl
@[simp] theorem State.setZ_t1run (b : Bool) : (s.setZ b).t1run = s.t1run := rfl
@[simp] theorem State.setZ_prescaler (b : Bool) : (s.setZ b).prescaler = s.prescaler := rfl
@[simp] theorem State.setZ_sio (b : Bool) : (s.setZ b).sio = s.sio := rfl
@[simp] theorem State.setZ_sio2 (b : Bool) : (s.setZ b).sio2 = s.sio2 := rfl
@[simp] theorem State.setZ_siorun (b : Bool) : (s.setZ b).siorun = s.siorun := rfl
@[simp] theorem State.setZ_pl (b : Bool) : (s.setZ b).pl = s.pl := rfl
@[simp] theorem State.setZ_inputModes (b : Bool) : (s.setZ b).inputModes = s.inputModes := rfl
@[simp] theorem State.setZ_cr (b : Bool) : (s.setZ b).cr = s.cr := rfl
@[simp] theorem State.setZ_ram (b : Bool) : (s.setZ b).ram = s.ram := rfl
@[simp] theorem State.setZ_rom (b : Bool) : (s.setZ b).rom = s.rom := rfl
@[simp] theorem State.setZ_conf (b : Bool) : (s.setZ b).conf = s.conf := rfl
@[simp] theorem State.setZ_env (b : Bool) : (s.setZ b).env = s.env := rfl
@[simp] theorem State.setZ_draws (b : Bool) : (s.setZ b).draws = s.draws := rfl

/-! ### `setEa` -/

@[simp] theorem State.setEa_ac (b : Byte) : (s.setEa b).ac = loNibble b := rfl
@[simp] theorem State.setEa_e (b : Byte) : (s.setEa b).e = hiNibble b := rfl
@[simp] theorem State.setEa_dph (b : Byte) : (s.setEa b).dph = s.dph := rfl
@[simp] theorem State.setEa_dpl (b : Byte) : (s.setEa b).dpl = s.dpl := rfl
@[simp] theorem State.setEa_dpx (b : Byte) : (s.setEa b).dpx = s.dpx := rfl
@[simp] theorem State.setEa_dpy (b : Byte) : (s.setEa b).dpy = s.dpy := rfl
@[simp] theorem State.setEa_sp (b : Byte) : (s.setEa b).sp = s.sp := rfl
@[simp] theorem State.setEa_pc (b : Byte) : (s.setEa b).pc = s.pc := rfl
@[simp] theorem State.setEa_cf (b : Byte) : (s.setEa b).cf = s.cf := rfl
@[simp] theorem State.setEa_zf (b : Byte) : (s.setEa b).zf = s.zf := rfl
@[simp] theorem State.setEa_uf (b : Byte) : (s.setEa b).uf = s.uf := rfl
@[simp] theorem State.setEa_mse (b : Byte) : (s.setEa b).mse = s.mse := rfl
@[simp] theorem State.setEa_edih (b : Byte) : (s.setEa b).edih = s.edih := rfl
@[simp] theorem State.setEa_edil (b : Byte) : (s.setEa b).edil = s.edil := rfl
@[simp] theorem State.setEa_irq (b : Byte) : (s.setEa b).irq = s.irq := rfl
@[simp] theorem State.setEa_mode (b : Byte) : (s.setEa b).mode = s.mode := rfl
@[simp] theorem State.setEa_bnk (b : Byte) : (s.setEa b).bnk = s.bnk := rfl
@[simp] theorem State.setEa_vsk (b : Byte) : (s.setEa b).vsk = s.vsk := rfl
@[simp] theorem State.setEa_sbr (b : Byte) : (s.setEa b).sbr = s.sbr := rfl
@[simp] theorem State.setEa_t0r (b : Byte) : (s.setEa b).t0r = s.t0r := rfl
@[simp] theorem State.setEa_t0c (b : Byte) : (s.setEa b).t0c = s.t0c := rfl
@[simp] theorem State.setEa_t0run (b : Byte) : (s.setEa b).t0run = s.t0run := rfl
@[simp] theorem State.setEa_t1ra (b : Byte) : (s.setEa b).t1ra = s.t1ra := rfl
@[simp] theorem State.setEa_t1rb (b : Byte) : (s.setEa b).t1rb = s.t1rb := rfl
@[simp] theorem State.setEa_t1c (b : Byte) : (s.setEa b).t1c = s.t1c := rfl
@[simp] theorem State.setEa_t1run (b : Byte) : (s.setEa b).t1run = s.t1run := rfl
@[simp] theorem State.setEa_prescaler (b : Byte) : (s.setEa b).prescaler = s.prescaler := rfl
@[simp] theorem State.setEa_sio (b : Byte) : (s.setEa b).sio = s.sio := rfl
@[simp] theorem State.setEa_sio2 (b : Byte) : (s.setEa b).sio2 = s.sio2 := rfl
@[simp] theorem State.setEa_siorun (b : Byte) : (s.setEa b).siorun = s.siorun := rfl
@[simp] theorem State.setEa_pl (b : Byte) : (s.setEa b).pl = s.pl := rfl
@[simp] theorem State.setEa_inputModes (b : Byte) : (s.setEa b).inputModes = s.inputModes := rfl
@[simp] theorem State.setEa_cr (b : Byte) : (s.setEa b).cr = s.cr := rfl
@[simp] theorem State.setEa_ram (b : Byte) : (s.setEa b).ram = s.ram := rfl
@[simp] theorem State.setEa_rom (b : Byte) : (s.setEa b).rom = s.rom := rfl
@[simp] theorem State.setEa_conf (b : Byte) : (s.setEa b).conf = s.conf := rfl
@[simp] theorem State.setEa_env (b : Byte) : (s.setEa b).env = s.env := rfl
@[simp] theorem State.setEa_draws (b : Byte) : (s.setEa b).draws = s.draws := rfl

/-! ### `writeRam` -/

@[simp] theorem State.writeRam_ac (a : RamAddr) (v : Nibble) : (s.writeRam a v).ac = s.ac := rfl
@[simp] theorem State.writeRam_e (a : RamAddr) (v : Nibble) : (s.writeRam a v).e = s.e := rfl
@[simp] theorem State.writeRam_dph (a : RamAddr) (v : Nibble) : (s.writeRam a v).dph = s.dph := rfl
@[simp] theorem State.writeRam_dpl (a : RamAddr) (v : Nibble) : (s.writeRam a v).dpl = s.dpl := rfl
@[simp] theorem State.writeRam_dpx (a : RamAddr) (v : Nibble) : (s.writeRam a v).dpx = s.dpx := rfl
@[simp] theorem State.writeRam_dpy (a : RamAddr) (v : Nibble) : (s.writeRam a v).dpy = s.dpy := rfl
@[simp] theorem State.writeRam_sp (a : RamAddr) (v : Nibble) : (s.writeRam a v).sp = s.sp := rfl
@[simp] theorem State.writeRam_pc (a : RamAddr) (v : Nibble) : (s.writeRam a v).pc = s.pc := rfl
@[simp] theorem State.writeRam_cf (a : RamAddr) (v : Nibble) : (s.writeRam a v).cf = s.cf := rfl
@[simp] theorem State.writeRam_zf (a : RamAddr) (v : Nibble) : (s.writeRam a v).zf = s.zf := rfl
@[simp] theorem State.writeRam_uf (a : RamAddr) (v : Nibble) : (s.writeRam a v).uf = s.uf := rfl
@[simp] theorem State.writeRam_mse (a : RamAddr) (v : Nibble) : (s.writeRam a v).mse = s.mse := rfl
@[simp] theorem State.writeRam_edih (a : RamAddr) (v : Nibble) : (s.writeRam a v).edih = s.edih := rfl
@[simp] theorem State.writeRam_edil (a : RamAddr) (v : Nibble) : (s.writeRam a v).edil = s.edil := rfl
@[simp] theorem State.writeRam_irq (a : RamAddr) (v : Nibble) : (s.writeRam a v).irq = s.irq := rfl
@[simp] theorem State.writeRam_mode (a : RamAddr) (v : Nibble) : (s.writeRam a v).mode = s.mode := rfl
@[simp] theorem State.writeRam_bnk (a : RamAddr) (v : Nibble) : (s.writeRam a v).bnk = s.bnk := rfl
@[simp] theorem State.writeRam_vsk (a : RamAddr) (v : Nibble) : (s.writeRam a v).vsk = s.vsk := rfl
@[simp] theorem State.writeRam_sbr (a : RamAddr) (v : Nibble) : (s.writeRam a v).sbr = s.sbr := rfl
@[simp] theorem State.writeRam_t0r (a : RamAddr) (v : Nibble) : (s.writeRam a v).t0r = s.t0r := rfl
@[simp] theorem State.writeRam_t0c (a : RamAddr) (v : Nibble) : (s.writeRam a v).t0c = s.t0c := rfl
@[simp] theorem State.writeRam_t0run (a : RamAddr) (v : Nibble) : (s.writeRam a v).t0run = s.t0run := rfl
@[simp] theorem State.writeRam_t1ra (a : RamAddr) (v : Nibble) : (s.writeRam a v).t1ra = s.t1ra := rfl
@[simp] theorem State.writeRam_t1rb (a : RamAddr) (v : Nibble) : (s.writeRam a v).t1rb = s.t1rb := rfl
@[simp] theorem State.writeRam_t1c (a : RamAddr) (v : Nibble) : (s.writeRam a v).t1c = s.t1c := rfl
@[simp] theorem State.writeRam_t1run (a : RamAddr) (v : Nibble) : (s.writeRam a v).t1run = s.t1run := rfl
@[simp] theorem State.writeRam_prescaler (a : RamAddr) (v : Nibble) : (s.writeRam a v).prescaler = s.prescaler := rfl
@[simp] theorem State.writeRam_sio (a : RamAddr) (v : Nibble) : (s.writeRam a v).sio = s.sio := rfl
@[simp] theorem State.writeRam_sio2 (a : RamAddr) (v : Nibble) : (s.writeRam a v).sio2 = s.sio2 := rfl
@[simp] theorem State.writeRam_siorun (a : RamAddr) (v : Nibble) : (s.writeRam a v).siorun = s.siorun := rfl
@[simp] theorem State.writeRam_pl (a : RamAddr) (v : Nibble) : (s.writeRam a v).pl = s.pl := rfl
@[simp] theorem State.writeRam_inputModes (a : RamAddr) (v : Nibble) : (s.writeRam a v).inputModes = s.inputModes := rfl
@[simp] theorem State.writeRam_cr (a : RamAddr) (v : Nibble) : (s.writeRam a v).cr = s.cr := rfl
@[simp] theorem State.writeRam_ram (a : RamAddr) (v : Nibble) : (s.writeRam a v).ram = ramWrite s.ram a v := rfl
@[simp] theorem State.writeRam_rom (a : RamAddr) (v : Nibble) : (s.writeRam a v).rom = s.rom := rfl
@[simp] theorem State.writeRam_conf (a : RamAddr) (v : Nibble) : (s.writeRam a v).conf = s.conf := rfl
@[simp] theorem State.writeRam_env (a : RamAddr) (v : Nibble) : (s.writeRam a v).env = s.env := rfl
@[simp] theorem State.writeRam_draws (a : RamAddr) (v : Nibble) : (s.writeRam a v).draws = s.draws := rfl

/-! ### `raiseSp` -/

@[simp] theorem State.raiseSp_ac (d : Byte) : (s.raiseSp d).ac = s.ac := rfl
@[simp] theorem State.raiseSp_e (d : Byte) : (s.raiseSp d).e = s.e := rfl
@[simp] theorem State.raiseSp_dph (d : Byte) : (s.raiseSp d).dph = s.dph := rfl
@[simp] theorem State.raiseSp_dpl (d : Byte) : (s.raiseSp d).dpl = s.dpl := rfl
@[simp] theorem State.raiseSp_dpx (d : Byte) : (s.raiseSp d).dpx = s.dpx := rfl
@[simp] theorem State.raiseSp_dpy (d : Byte) : (s.raiseSp d).dpy = s.dpy := rfl
@[simp] theorem State.raiseSp_sp (d : Byte) : (s.raiseSp d).sp = s.sp + d := rfl
@[simp] theorem State.raiseSp_pc (d : Byte) : (s.raiseSp d).pc = s.pc := rfl
@[simp] theorem State.raiseSp_cf (d : Byte) : (s.raiseSp d).cf = s.cf := rfl
@[simp] theorem State.raiseSp_zf (d : Byte) : (s.raiseSp d).zf = s.zf := rfl
@[simp] theorem State.raiseSp_uf (d : Byte) : (s.raiseSp d).uf = s.uf := rfl
@[simp] theorem State.raiseSp_mse (d : Byte) : (s.raiseSp d).mse = s.mse := rfl
@[simp] theorem State.raiseSp_edih (d : Byte) : (s.raiseSp d).edih = s.edih := rfl
@[simp] theorem State.raiseSp_edil (d : Byte) : (s.raiseSp d).edil = s.edil := rfl
@[simp] theorem State.raiseSp_irq (d : Byte) : (s.raiseSp d).irq = s.irq := rfl
@[simp] theorem State.raiseSp_mode (d : Byte) : (s.raiseSp d).mode = s.mode := rfl
@[simp] theorem State.raiseSp_bnk (d : Byte) : (s.raiseSp d).bnk = s.bnk := rfl
@[simp] theorem State.raiseSp_vsk (d : Byte) : (s.raiseSp d).vsk = s.vsk := rfl
@[simp] theorem State.raiseSp_sbr (d : Byte) : (s.raiseSp d).sbr = s.sbr := rfl
@[simp] theorem State.raiseSp_t0r (d : Byte) : (s.raiseSp d).t0r = s.t0r := rfl
@[simp] theorem State.raiseSp_t0c (d : Byte) : (s.raiseSp d).t0c = s.t0c := rfl
@[simp] theorem State.raiseSp_t0run (d : Byte) : (s.raiseSp d).t0run = s.t0run := rfl
@[simp] theorem State.raiseSp_t1ra (d : Byte) : (s.raiseSp d).t1ra = s.t1ra := rfl
@[simp] theorem State.raiseSp_t1rb (d : Byte) : (s.raiseSp d).t1rb = s.t1rb := rfl
@[simp] theorem State.raiseSp_t1c (d : Byte) : (s.raiseSp d).t1c = s.t1c := rfl
@[simp] theorem State.raiseSp_t1run (d : Byte) : (s.raiseSp d).t1run = s.t1run := rfl
@[simp] theorem State.raiseSp_prescaler (d : Byte) : (s.raiseSp d).prescaler = s.prescaler := rfl
@[simp] theorem State.raiseSp_sio (d : Byte) : (s.raiseSp d).sio = s.sio := rfl
@[simp] theorem State.raiseSp_sio2 (d : Byte) : (s.raiseSp d).sio2 = s.sio2 := rfl
@[simp] theorem State.raiseSp_siorun (d : Byte) : (s.raiseSp d).siorun = s.siorun := rfl
@[simp] theorem State.raiseSp_pl (d : Byte) : (s.raiseSp d).pl = s.pl := rfl
@[simp] theorem State.raiseSp_inputModes (d : Byte) : (s.raiseSp d).inputModes = s.inputModes := rfl
@[simp] theorem State.raiseSp_cr (d : Byte) : (s.raiseSp d).cr = s.cr := rfl
@[simp] theorem State.raiseSp_ram (d : Byte) : (s.raiseSp d).ram = s.ram := rfl
@[simp] theorem State.raiseSp_rom (d : Byte) : (s.raiseSp d).rom = s.rom := rfl
@[simp] theorem State.raiseSp_conf (d : Byte) : (s.raiseSp d).conf = s.conf := rfl
@[simp] theorem State.raiseSp_env (d : Byte) : (s.raiseSp d).env = s.env := rfl
@[simp] theorem State.raiseSp_draws (d : Byte) : (s.raiseSp d).draws = s.draws := rfl

/-! ### `retire` -/

@[simp] theorem State.retire_ac (p : RomAddr) (b v : Bool) : (s.retire p b v).ac = s.ac := rfl
@[simp] theorem State.retire_e (p : RomAddr) (b v : Bool) : (s.retire p b v).e = s.e := rfl
@[simp] theorem State.retire_dph (p : RomAddr) (b v : Bool) : (s.retire p b v).dph = s.dph := rfl
@[simp] theorem State.retire_dpl (p : RomAddr) (b v : Bool) : (s.retire p b v).dpl = s.dpl := rfl
@[simp] theorem State.retire_dpx (p : RomAddr) (b v : Bool) : (s.retire p b v).dpx = s.dpx := rfl
@[simp] theorem State.retire_dpy (p : RomAddr) (b v : Bool) : (s.retire p b v).dpy = s.dpy := rfl
@[simp] theorem State.retire_sp (p : RomAddr) (b v : Bool) : (s.retire p b v).sp = s.sp := rfl
@[simp] theorem State.retire_pc (p : RomAddr) (b v : Bool) : (s.retire p b v).pc = p := rfl
@[simp] theorem State.retire_cf (p : RomAddr) (b v : Bool) : (s.retire p b v).cf = s.cf := rfl
@[simp] theorem State.retire_zf (p : RomAddr) (b v : Bool) : (s.retire p b v).zf = s.zf := rfl
@[simp] theorem State.retire_uf (p : RomAddr) (b v : Bool) : (s.retire p b v).uf = s.uf := rfl
@[simp] theorem State.retire_mse (p : RomAddr) (b v : Bool) : (s.retire p b v).mse = s.mse := rfl
@[simp] theorem State.retire_edih (p : RomAddr) (b v : Bool) : (s.retire p b v).edih = s.edih := rfl
@[simp] theorem State.retire_edil (p : RomAddr) (b v : Bool) : (s.retire p b v).edil = s.edil := rfl
@[simp] theorem State.retire_irq (p : RomAddr) (b v : Bool) : (s.retire p b v).irq = s.irq := rfl
@[simp] theorem State.retire_mode (p : RomAddr) (b v : Bool) : (s.retire p b v).mode = s.mode := rfl
@[simp] theorem State.retire_bnk (p : RomAddr) (b v : Bool) : (s.retire p b v).bnk = b := rfl
@[simp] theorem State.retire_vsk (p : RomAddr) (b v : Bool) : (s.retire p b v).vsk = v := rfl
@[simp] theorem State.retire_sbr (p : RomAddr) (b v : Bool) : (s.retire p b v).sbr = s.sbr := rfl
@[simp] theorem State.retire_t0r (p : RomAddr) (b v : Bool) : (s.retire p b v).t0r = s.t0r := rfl
@[simp] theorem State.retire_t0c (p : RomAddr) (b v : Bool) : (s.retire p b v).t0c = s.t0c := rfl
@[simp] theorem State.retire_t0run (p : RomAddr) (b v : Bool) : (s.retire p b v).t0run = s.t0run := rfl
@[simp] theorem State.retire_t1ra (p : RomAddr) (b v : Bool) : (s.retire p b v).t1ra = s.t1ra := rfl
@[simp] theorem State.retire_t1rb (p : RomAddr) (b v : Bool) : (s.retire p b v).t1rb = s.t1rb := rfl
@[simp] theorem State.retire_t1c (p : RomAddr) (b v : Bool) : (s.retire p b v).t1c = s.t1c := rfl
@[simp] theorem State.retire_t1run (p : RomAddr) (b v : Bool) : (s.retire p b v).t1run = s.t1run := rfl
@[simp] theorem State.retire_prescaler (p : RomAddr) (b v : Bool) : (s.retire p b v).prescaler = s.prescaler := rfl
@[simp] theorem State.retire_sio (p : RomAddr) (b v : Bool) : (s.retire p b v).sio = s.sio := rfl
@[simp] theorem State.retire_sio2 (p : RomAddr) (b v : Bool) : (s.retire p b v).sio2 = s.sio2 := rfl
@[simp] theorem State.retire_siorun (p : RomAddr) (b v : Bool) : (s.retire p b v).siorun = s.siorun := rfl
@[simp] theorem State.retire_pl (p : RomAddr) (b v : Bool) : (s.retire p b v).pl = s.pl := rfl
@[simp] theorem State.retire_inputModes (p : RomAddr) (b v : Bool) : (s.retire p b v).inputModes = s.inputModes := rfl
@[simp] theorem State.retire_cr (p : RomAddr) (b v : Bool) : (s.retire p b v).cr = s.cr := rfl
@[simp] theorem State.retire_ram (p : RomAddr) (b v : Bool) : (s.retire p b v).ram = s.ram := rfl
@[simp] theorem State.retire_rom (p : RomAddr) (b v : Bool) : (s.retire p b v).rom = s.rom := rfl
@[simp] theorem State.retire_conf (p : RomAddr) (b v : Bool) : (s.retire p b v).conf = s.conf := rfl
@[simp] theorem State.retire_env (p : RomAddr) (b v : Bool) : (s.retire p b v).env = s.env := rfl
@[simp] theorem State.retire_draws (p : RomAddr) (b v : Bool) : (s.retire p b v).draws = s.draws := rfl

/-! ### `pushFrame` -/

@[simp] theorem State.pushFrame_ac (w : BitVec 16) : (s.pushFrame w).ac = s.ac := rfl
@[simp] theorem State.pushFrame_e (w : BitVec 16) : (s.pushFrame w).e = s.e := rfl
@[simp] theorem State.pushFrame_dph (w : BitVec 16) : (s.pushFrame w).dph = s.dph := rfl
@[simp] theorem State.pushFrame_dpl (w : BitVec 16) : (s.pushFrame w).dpl = s.dpl := rfl
@[simp] theorem State.pushFrame_dpx (w : BitVec 16) : (s.pushFrame w).dpx = s.dpx := rfl
@[simp] theorem State.pushFrame_dpy (w : BitVec 16) : (s.pushFrame w).dpy = s.dpy := rfl
@[simp] theorem State.pushFrame_sp (w : BitVec 16) : (s.pushFrame w).sp = s.sp - 4 := rfl
@[simp] theorem State.pushFrame_pc (w : BitVec 16) : (s.pushFrame w).pc = s.pc := rfl
@[simp] theorem State.pushFrame_cf (w : BitVec 16) : (s.pushFrame w).cf = s.cf := rfl
@[simp] theorem State.pushFrame_zf (w : BitVec 16) : (s.pushFrame w).zf = s.zf := rfl
@[simp] theorem State.pushFrame_uf (w : BitVec 16) : (s.pushFrame w).uf = s.uf := rfl
@[simp] theorem State.pushFrame_mse (w : BitVec 16) : (s.pushFrame w).mse = s.mse := rfl
@[simp] theorem State.pushFrame_edih (w : BitVec 16) : (s.pushFrame w).edih = s.edih := rfl
@[simp] theorem State.pushFrame_edil (w : BitVec 16) : (s.pushFrame w).edil = s.edil := rfl
@[simp] theorem State.pushFrame_irq (w : BitVec 16) : (s.pushFrame w).irq = s.irq := rfl
@[simp] theorem State.pushFrame_mode (w : BitVec 16) : (s.pushFrame w).mode = s.mode := rfl
@[simp] theorem State.pushFrame_bnk (w : BitVec 16) : (s.pushFrame w).bnk = s.bnk := rfl
@[simp] theorem State.pushFrame_vsk (w : BitVec 16) : (s.pushFrame w).vsk = s.vsk := rfl
@[simp] theorem State.pushFrame_sbr (w : BitVec 16) : (s.pushFrame w).sbr = s.sbr := rfl
@[simp] theorem State.pushFrame_t0r (w : BitVec 16) : (s.pushFrame w).t0r = s.t0r := rfl
@[simp] theorem State.pushFrame_t0c (w : BitVec 16) : (s.pushFrame w).t0c = s.t0c := rfl
@[simp] theorem State.pushFrame_t0run (w : BitVec 16) : (s.pushFrame w).t0run = s.t0run := rfl
@[simp] theorem State.pushFrame_t1ra (w : BitVec 16) : (s.pushFrame w).t1ra = s.t1ra := rfl
@[simp] theorem State.pushFrame_t1rb (w : BitVec 16) : (s.pushFrame w).t1rb = s.t1rb := rfl
@[simp] theorem State.pushFrame_t1c (w : BitVec 16) : (s.pushFrame w).t1c = s.t1c := rfl
@[simp] theorem State.pushFrame_t1run (w : BitVec 16) : (s.pushFrame w).t1run = s.t1run := rfl
@[simp] theorem State.pushFrame_prescaler (w : BitVec 16) : (s.pushFrame w).prescaler = s.prescaler := rfl
@[simp] theorem State.pushFrame_sio (w : BitVec 16) : (s.pushFrame w).sio = s.sio := rfl
@[simp] theorem State.pushFrame_sio2 (w : BitVec 16) : (s.pushFrame w).sio2 = s.sio2 := rfl
@[simp] theorem State.pushFrame_siorun (w : BitVec 16) : (s.pushFrame w).siorun = s.siorun := rfl
@[simp] theorem State.pushFrame_pl (w : BitVec 16) : (s.pushFrame w).pl = s.pl := rfl
@[simp] theorem State.pushFrame_inputModes (w : BitVec 16) : (s.pushFrame w).inputModes = s.inputModes := rfl
@[simp] theorem State.pushFrame_cr (w : BitVec 16) : (s.pushFrame w).cr = s.cr := rfl
@[simp] theorem State.pushFrame_rom (w : BitVec 16) : (s.pushFrame w).rom = s.rom := rfl
@[simp] theorem State.pushFrame_conf (w : BitVec 16) : (s.pushFrame w).conf = s.conf := rfl
@[simp] theorem State.pushFrame_env (w : BitVec 16) : (s.pushFrame w).env = s.env := rfl
@[simp] theorem State.pushFrame_draws (w : BitVec 16) : (s.pushFrame w).draws = s.draws := rfl

/-! ### `entryEffects` -/

@[simp] theorem State.entryEffects_ac (k : Fin 8) : (s.entryEffects k).ac = s.ac := rfl
@[simp] theorem State.entryEffects_e (k : Fin 8) : (s.entryEffects k).e = s.e := rfl
@[simp] theorem State.entryEffects_dph (k : Fin 8) : (s.entryEffects k).dph = s.dph := rfl
@[simp] theorem State.entryEffects_dpl (k : Fin 8) : (s.entryEffects k).dpl = s.dpl := rfl
@[simp] theorem State.entryEffects_dpx (k : Fin 8) : (s.entryEffects k).dpx = s.dpx := rfl
@[simp] theorem State.entryEffects_dpy (k : Fin 8) : (s.entryEffects k).dpy = s.dpy := rfl
@[simp] theorem State.entryEffects_sp (k : Fin 8) : (s.entryEffects k).sp = s.sp := rfl
@[simp] theorem State.entryEffects_pc (k : Fin 8) : (s.entryEffects k).pc = s.pc := rfl
@[simp] theorem State.entryEffects_cf (k : Fin 8) : (s.entryEffects k).cf = s.cf := rfl
@[simp] theorem State.entryEffects_zf (k : Fin 8) : (s.entryEffects k).zf = s.zf := rfl
@[simp] theorem State.entryEffects_uf (k : Fin 8) : (s.entryEffects k).uf = s.uf := rfl
@[simp] theorem State.entryEffects_mode (k : Fin 8) : (s.entryEffects k).mode = s.mode := rfl
@[simp] theorem State.entryEffects_bnk (k : Fin 8) : (s.entryEffects k).bnk = s.bnk := rfl
@[simp] theorem State.entryEffects_vsk (k : Fin 8) : (s.entryEffects k).vsk = s.vsk := rfl
@[simp] theorem State.entryEffects_sbr (k : Fin 8) : (s.entryEffects k).sbr = s.sbr := rfl
@[simp] theorem State.entryEffects_t0r (k : Fin 8) : (s.entryEffects k).t0r = s.t0r := rfl
@[simp] theorem State.entryEffects_t0c (k : Fin 8) : (s.entryEffects k).t0c = s.t0c := rfl
@[simp] theorem State.entryEffects_t0run (k : Fin 8) : (s.entryEffects k).t0run = s.t0run := rfl
@[simp] theorem State.entryEffects_t1ra (k : Fin 8) : (s.entryEffects k).t1ra = s.t1ra := rfl
@[simp] theorem State.entryEffects_t1rb (k : Fin 8) : (s.entryEffects k).t1rb = s.t1rb := rfl
@[simp] theorem State.entryEffects_t1c (k : Fin 8) : (s.entryEffects k).t1c = s.t1c := rfl
@[simp] theorem State.entryEffects_t1run (k : Fin 8) : (s.entryEffects k).t1run = s.t1run := rfl
@[simp] theorem State.entryEffects_prescaler (k : Fin 8) : (s.entryEffects k).prescaler = s.prescaler := rfl
@[simp] theorem State.entryEffects_sio (k : Fin 8) : (s.entryEffects k).sio = s.sio := rfl
@[simp] theorem State.entryEffects_sio2 (k : Fin 8) : (s.entryEffects k).sio2 = s.sio2 := rfl
@[simp] theorem State.entryEffects_siorun (k : Fin 8) : (s.entryEffects k).siorun = s.siorun := rfl
@[simp] theorem State.entryEffects_pl (k : Fin 8) : (s.entryEffects k).pl = s.pl := rfl
@[simp] theorem State.entryEffects_inputModes (k : Fin 8) : (s.entryEffects k).inputModes = s.inputModes := rfl
@[simp] theorem State.entryEffects_cr (k : Fin 8) : (s.entryEffects k).cr = s.cr := rfl
@[simp] theorem State.entryEffects_ram (k : Fin 8) : (s.entryEffects k).ram = s.ram := rfl
@[simp] theorem State.entryEffects_rom (k : Fin 8) : (s.entryEffects k).rom = s.rom := rfl
@[simp] theorem State.entryEffects_conf (k : Fin 8) : (s.entryEffects k).conf = s.conf := rfl
@[simp] theorem State.entryEffects_env (k : Fin 8) : (s.entryEffects k).env = s.env := rfl
@[simp] theorem State.entryEffects_draws (k : Fin 8) : (s.entryEffects k).draws = s.draws := rfl

/-! ### `latchRequests` -/

@[simp] theorem State.latchRequests_ac : s.latchRequests.ac = s.ac := rfl
@[simp] theorem State.latchRequests_e : s.latchRequests.e = s.e := rfl
@[simp] theorem State.latchRequests_dph : s.latchRequests.dph = s.dph := rfl
@[simp] theorem State.latchRequests_dpl : s.latchRequests.dpl = s.dpl := rfl
@[simp] theorem State.latchRequests_dpx : s.latchRequests.dpx = s.dpx := rfl
@[simp] theorem State.latchRequests_dpy : s.latchRequests.dpy = s.dpy := rfl
@[simp] theorem State.latchRequests_sp : s.latchRequests.sp = s.sp := rfl
@[simp] theorem State.latchRequests_pc : s.latchRequests.pc = s.pc := rfl
@[simp] theorem State.latchRequests_cf : s.latchRequests.cf = s.cf := rfl
@[simp] theorem State.latchRequests_zf : s.latchRequests.zf = s.zf := rfl
@[simp] theorem State.latchRequests_uf : s.latchRequests.uf = s.uf := rfl
@[simp] theorem State.latchRequests_mse : s.latchRequests.mse = s.mse := rfl
@[simp] theorem State.latchRequests_edih : s.latchRequests.edih = s.edih := rfl
@[simp] theorem State.latchRequests_edil : s.latchRequests.edil = s.edil := rfl
@[simp] theorem State.latchRequests_irq : s.latchRequests.irq = s.irq ||| s.env.irqEvents := rfl
@[simp] theorem State.latchRequests_mode : s.latchRequests.mode = s.mode := rfl
@[simp] theorem State.latchRequests_bnk : s.latchRequests.bnk = s.bnk := rfl
@[simp] theorem State.latchRequests_vsk : s.latchRequests.vsk = s.vsk := rfl
@[simp] theorem State.latchRequests_sbr : s.latchRequests.sbr = s.sbr := rfl
@[simp] theorem State.latchRequests_t0r : s.latchRequests.t0r = s.t0r := rfl
@[simp] theorem State.latchRequests_t0c : s.latchRequests.t0c = s.t0c := rfl
@[simp] theorem State.latchRequests_t0run : s.latchRequests.t0run = s.t0run := rfl
@[simp] theorem State.latchRequests_t1ra : s.latchRequests.t1ra = s.t1ra := rfl
@[simp] theorem State.latchRequests_t1rb : s.latchRequests.t1rb = s.t1rb := rfl
@[simp] theorem State.latchRequests_t1c : s.latchRequests.t1c = s.t1c := rfl
@[simp] theorem State.latchRequests_t1run : s.latchRequests.t1run = s.t1run := rfl
@[simp] theorem State.latchRequests_prescaler : s.latchRequests.prescaler = s.prescaler := rfl
@[simp] theorem State.latchRequests_sio : s.latchRequests.sio = s.sio := rfl
@[simp] theorem State.latchRequests_sio2 : s.latchRequests.sio2 = s.sio2 := rfl
@[simp] theorem State.latchRequests_siorun : s.latchRequests.siorun = s.siorun := rfl
@[simp] theorem State.latchRequests_pl : s.latchRequests.pl = s.pl := rfl
@[simp] theorem State.latchRequests_inputModes : s.latchRequests.inputModes = s.inputModes := rfl
@[simp] theorem State.latchRequests_cr : s.latchRequests.cr = s.cr := rfl
@[simp] theorem State.latchRequests_ram : s.latchRequests.ram = s.ram := rfl
@[simp] theorem State.latchRequests_rom : s.latchRequests.rom = s.rom := rfl
@[simp] theorem State.latchRequests_conf : s.latchRequests.conf = s.conf := rfl
@[simp] theorem State.latchRequests_env : s.latchRequests.env = s.env.afterBoundary := rfl
@[simp] theorem State.latchRequests_draws : s.latchRequests.draws = s.draws := rfl

/-! ### `peripherals` -/

@[simp] theorem State.peripherals_ac : s.peripherals.ac = s.ac := rfl
@[simp] theorem State.peripherals_e : s.peripherals.e = s.e := rfl
@[simp] theorem State.peripherals_dph : s.peripherals.dph = s.dph := rfl
@[simp] theorem State.peripherals_dpl : s.peripherals.dpl = s.dpl := rfl
@[simp] theorem State.peripherals_dpx : s.peripherals.dpx = s.dpx := rfl
@[simp] theorem State.peripherals_dpy : s.peripherals.dpy = s.dpy := rfl
@[simp] theorem State.peripherals_sp : s.peripherals.sp = s.sp := rfl
@[simp] theorem State.peripherals_pc : s.peripherals.pc = s.pc := rfl
@[simp] theorem State.peripherals_cf : s.peripherals.cf = s.cf := rfl
@[simp] theorem State.peripherals_zf : s.peripherals.zf = s.zf := rfl
@[simp] theorem State.peripherals_uf : s.peripherals.uf = s.uf := rfl
@[simp] theorem State.peripherals_mse : s.peripherals.mse = s.mse := rfl
@[simp] theorem State.peripherals_edih : s.peripherals.edih = s.edih := rfl
@[simp] theorem State.peripherals_edil : s.peripherals.edil = s.edil := rfl
@[simp] theorem State.peripherals_irq : s.peripherals.irq = s.irq := rfl
@[simp] theorem State.peripherals_mode : s.peripherals.mode = s.mode := rfl
@[simp] theorem State.peripherals_bnk : s.peripherals.bnk = s.bnk := rfl
@[simp] theorem State.peripherals_vsk : s.peripherals.vsk = s.vsk := rfl
@[simp] theorem State.peripherals_sbr : s.peripherals.sbr = s.sbr := rfl
@[simp] theorem State.peripherals_t0r : s.peripherals.t0r = s.t0r := rfl
@[simp] theorem State.peripherals_t0c : s.peripherals.t0c = Config.timer0Model s.draws s.t0run s.t0r s.t0c s.prescaler := rfl
@[simp] theorem State.peripherals_t0run : s.peripherals.t0run = s.t0run := rfl
@[simp] theorem State.peripherals_t1ra : s.peripherals.t1ra = s.t1ra := rfl
@[simp] theorem State.peripherals_t1rb : s.peripherals.t1rb = s.t1rb := rfl
@[simp] theorem State.peripherals_t1c : s.peripherals.t1c = Config.timer1Model s.draws s.t1run s.t1ra s.t1rb s.t1c s.prescaler := rfl
@[simp] theorem State.peripherals_t1run : s.peripherals.t1run = s.t1run := rfl
@[simp] theorem State.peripherals_prescaler : s.peripherals.prescaler = Config.prescalerModel s.draws s.prescaler := rfl
@[simp] theorem State.peripherals_sio : s.peripherals.sio = s.serialAfter.sio := rfl
@[simp] theorem State.peripherals_sio2 : s.peripherals.sio2 = s.serialAfter.sio2 := rfl
@[simp] theorem State.peripherals_siorun : s.peripherals.siorun = s.serialAfter.running := rfl
@[simp] theorem State.peripherals_pl : s.peripherals.pl = s.pl := rfl
@[simp] theorem State.peripherals_inputModes : s.peripherals.inputModes = s.inputModes := rfl
@[simp] theorem State.peripherals_cr : s.peripherals.cr = s.cr := rfl
@[simp] theorem State.peripherals_ram : s.peripherals.ram = s.ram := rfl
@[simp] theorem State.peripherals_rom : s.peripherals.rom = s.rom := rfl
@[simp] theorem State.peripherals_conf : s.peripherals.conf = s.conf := rfl
@[simp] theorem State.peripherals_env : s.peripherals.env = s.env := rfl
@[simp] theorem State.peripherals_draws : s.peripherals.draws = s.draws + 1 := rfl

/-! ### `atBoundary` -/

@[simp] theorem State.atBoundary_ac : s.atBoundary.ac = s.ac := rfl
@[simp] theorem State.atBoundary_e : s.atBoundary.e = s.e := rfl
@[simp] theorem State.atBoundary_dph : s.atBoundary.dph = s.dph := rfl
@[simp] theorem State.atBoundary_dpl : s.atBoundary.dpl = s.dpl := rfl
@[simp] theorem State.atBoundary_dpx : s.atBoundary.dpx = s.dpx := rfl
@[simp] theorem State.atBoundary_dpy : s.atBoundary.dpy = s.dpy := rfl
@[simp] theorem State.atBoundary_sp : s.atBoundary.sp = s.sp := rfl
@[simp] theorem State.atBoundary_pc : s.atBoundary.pc = s.pc := rfl
@[simp] theorem State.atBoundary_cf : s.atBoundary.cf = s.cf := rfl
@[simp] theorem State.atBoundary_zf : s.atBoundary.zf = s.zf := rfl
@[simp] theorem State.atBoundary_uf : s.atBoundary.uf = s.uf := rfl
@[simp] theorem State.atBoundary_mse : s.atBoundary.mse = s.mse := rfl
@[simp] theorem State.atBoundary_edih : s.atBoundary.edih = s.edih := rfl
@[simp] theorem State.atBoundary_edil : s.atBoundary.edil = s.edil := rfl
@[simp] theorem State.atBoundary_irq : s.atBoundary.irq = s.irq ||| s.env.irqEvents := rfl
@[simp] theorem State.atBoundary_mode : s.atBoundary.mode = s.mode := rfl
@[simp] theorem State.atBoundary_bnk : s.atBoundary.bnk = s.bnk := rfl
@[simp] theorem State.atBoundary_vsk : s.atBoundary.vsk = s.vsk := rfl
@[simp] theorem State.atBoundary_sbr : s.atBoundary.sbr = s.sbr := rfl
@[simp] theorem State.atBoundary_t0r : s.atBoundary.t0r = s.t0r := rfl
@[simp] theorem State.atBoundary_t0c : s.atBoundary.t0c = Config.timer0Model s.draws s.t0run s.t0r s.t0c s.prescaler := rfl
@[simp] theorem State.atBoundary_t0run : s.atBoundary.t0run = s.t0run := rfl
@[simp] theorem State.atBoundary_t1ra : s.atBoundary.t1ra = s.t1ra := rfl
@[simp] theorem State.atBoundary_t1rb : s.atBoundary.t1rb = s.t1rb := rfl
@[simp] theorem State.atBoundary_t1c : s.atBoundary.t1c = Config.timer1Model s.draws s.t1run s.t1ra s.t1rb s.t1c s.prescaler := rfl
@[simp] theorem State.atBoundary_t1run : s.atBoundary.t1run = s.t1run := rfl
@[simp] theorem State.atBoundary_prescaler : s.atBoundary.prescaler = Config.prescalerModel s.draws s.prescaler := rfl
@[simp] theorem State.atBoundary_sio : s.atBoundary.sio = s.serialAfter.sio := rfl
@[simp] theorem State.atBoundary_sio2 : s.atBoundary.sio2 = s.serialAfter.sio2 := rfl
@[simp] theorem State.atBoundary_siorun : s.atBoundary.siorun = s.serialAfter.running := rfl
@[simp] theorem State.atBoundary_pl : s.atBoundary.pl = s.pl := rfl
@[simp] theorem State.atBoundary_inputModes : s.atBoundary.inputModes = s.inputModes := rfl
@[simp] theorem State.atBoundary_cr : s.atBoundary.cr = s.cr := rfl
@[simp] theorem State.atBoundary_ram : s.atBoundary.ram = s.ram := rfl
@[simp] theorem State.atBoundary_rom : s.atBoundary.rom = s.rom := rfl
@[simp] theorem State.atBoundary_conf : s.atBoundary.conf = s.conf := rfl
@[simp] theorem State.atBoundary_env : s.atBoundary.env = s.env.afterBoundary := rfl
@[simp] theorem State.atBoundary_draws : s.atBoundary.draws = s.draws + 1 := rfl

/-! ### `releaseHold` -/

@[simp] theorem State.releaseHold_ac : s.releaseHold.ac = s.ac := rfl
@[simp] theorem State.releaseHold_e : s.releaseHold.e = s.e := rfl
@[simp] theorem State.releaseHold_dph : s.releaseHold.dph = s.dph := rfl
@[simp] theorem State.releaseHold_dpl : s.releaseHold.dpl = s.dpl := rfl
@[simp] theorem State.releaseHold_dpx : s.releaseHold.dpx = s.dpx := rfl
@[simp] theorem State.releaseHold_dpy : s.releaseHold.dpy = s.dpy := rfl
@[simp] theorem State.releaseHold_sp : s.releaseHold.sp = s.sp := rfl
@[simp] theorem State.releaseHold_pc : s.releaseHold.pc = s.pc := rfl
@[simp] theorem State.releaseHold_cf : s.releaseHold.cf = s.cf := rfl
@[simp] theorem State.releaseHold_zf : s.releaseHold.zf = s.zf := rfl
@[simp] theorem State.releaseHold_uf : s.releaseHold.uf = s.uf := rfl
@[simp] theorem State.releaseHold_mse : s.releaseHold.mse = s.mse := rfl
@[simp] theorem State.releaseHold_edih : s.releaseHold.edih = s.edih := rfl
@[simp] theorem State.releaseHold_edil : s.releaseHold.edil = s.edil := rfl
@[simp] theorem State.releaseHold_irq : s.releaseHold.irq = s.irq := rfl
@[simp] theorem State.releaseHold_mode : s.releaseHold.mode = .run := rfl
@[simp] theorem State.releaseHold_bnk : s.releaseHold.bnk = s.bnk := rfl
@[simp] theorem State.releaseHold_vsk : s.releaseHold.vsk = s.vsk := rfl
@[simp] theorem State.releaseHold_sbr : s.releaseHold.sbr = s.sbr := rfl
@[simp] theorem State.releaseHold_t0r : s.releaseHold.t0r = (Config.afterHold s.draws).t0r := rfl
@[simp] theorem State.releaseHold_t0c : s.releaseHold.t0c = timer0ResetValue := rfl
@[simp] theorem State.releaseHold_t0run : s.releaseHold.t0run = (Config.afterHold s.draws).t0run := rfl
@[simp] theorem State.releaseHold_t1ra : s.releaseHold.t1ra = s.t1ra := rfl
@[simp] theorem State.releaseHold_t1rb : s.releaseHold.t1rb = (Config.afterHold s.draws).t1rb := rfl
@[simp] theorem State.releaseHold_t1c : s.releaseHold.t1c = (Config.afterHold s.draws).t1c := rfl
@[simp] theorem State.releaseHold_t1run : s.releaseHold.t1run = (Config.afterHold s.draws).t1run := rfl
@[simp] theorem State.releaseHold_prescaler : s.releaseHold.prescaler = (Config.afterHold s.draws).prescaler := rfl
@[simp] theorem State.releaseHold_sio : s.releaseHold.sio = (Config.afterHold s.draws).sio := rfl
@[simp] theorem State.releaseHold_sio2 : s.releaseHold.sio2 = (Config.afterHold s.draws).sio2 := rfl
@[simp] theorem State.releaseHold_siorun : s.releaseHold.siorun = (Config.afterHold s.draws).siorun := rfl
@[simp] theorem State.releaseHold_pl : s.releaseHold.pl = s.pl := rfl
@[simp] theorem State.releaseHold_inputModes : s.releaseHold.inputModes = (Config.afterHold s.draws).inputModes := rfl
@[simp] theorem State.releaseHold_cr : s.releaseHold.cr = (Config.afterHold s.draws).cr := rfl
@[simp] theorem State.releaseHold_ram : s.releaseHold.ram = s.ram := rfl
@[simp] theorem State.releaseHold_rom : s.releaseHold.rom = s.rom := rfl
@[simp] theorem State.releaseHold_conf : s.releaseHold.conf = s.conf := rfl
@[simp] theorem State.releaseHold_env : s.releaseHold.env = s.env := rfl
@[simp] theorem State.releaseHold_draws : s.releaseHold.draws = s.draws + 1 := rfl

/-! ### `takeInterrupt` -/

@[simp] theorem State.takeInterrupt_ac (k : Fin 8) : (s.takeInterrupt k).ac = s.ac := rfl
@[simp] theorem State.takeInterrupt_e (k : Fin 8) : (s.takeInterrupt k).e = s.e := rfl
@[simp] theorem State.takeInterrupt_dph (k : Fin 8) : (s.takeInterrupt k).dph = s.dph := rfl
@[simp] theorem State.takeInterrupt_dpl (k : Fin 8) : (s.takeInterrupt k).dpl = s.dpl := rfl
@[simp] theorem State.takeInterrupt_dpx (k : Fin 8) : (s.takeInterrupt k).dpx = s.dpx := rfl
@[simp] theorem State.takeInterrupt_dpy (k : Fin 8) : (s.takeInterrupt k).dpy = s.dpy := rfl
@[simp] theorem State.takeInterrupt_sp (k : Fin 8) : (s.takeInterrupt k).sp = s.sp - 4 := rfl
@[simp] theorem State.takeInterrupt_pc (k : Fin 8) : (s.takeInterrupt k).pc = s.conf.vec[k] := rfl
@[simp] theorem State.takeInterrupt_cf (k : Fin 8) : (s.takeInterrupt k).cf = s.cf := rfl
@[simp] theorem State.takeInterrupt_zf (k : Fin 8) : (s.takeInterrupt k).zf = s.zf := rfl
@[simp] theorem State.takeInterrupt_uf (k : Fin 8) : (s.takeInterrupt k).uf = s.uf := rfl
@[simp] theorem State.takeInterrupt_mse (k : Fin 8) : (s.takeInterrupt k).mse = (s.entryEffects k).mse := rfl
@[simp] theorem State.takeInterrupt_edih (k : Fin 8) : (s.takeInterrupt k).edih = (s.entryEffects k).edih := rfl
@[simp] theorem State.takeInterrupt_edil (k : Fin 8) : (s.takeInterrupt k).edil = (s.entryEffects k).edil := rfl
@[simp] theorem State.takeInterrupt_irq (k : Fin 8) : (s.takeInterrupt k).irq = (s.entryEffects k).irq := rfl
@[simp] theorem State.takeInterrupt_mode (k : Fin 8) : (s.takeInterrupt k).mode = s.mode := rfl
@[simp] theorem State.takeInterrupt_bnk (k : Fin 8) : (s.takeInterrupt k).bnk = s.bnk := rfl
@[simp] theorem State.takeInterrupt_vsk (k : Fin 8) : (s.takeInterrupt k).vsk = s.vsk := rfl
@[simp] theorem State.takeInterrupt_sbr (k : Fin 8) : (s.takeInterrupt k).sbr = s.sbr := rfl
@[simp] theorem State.takeInterrupt_t0r (k : Fin 8) : (s.takeInterrupt k).t0r = s.t0r := rfl
@[simp] theorem State.takeInterrupt_t0c (k : Fin 8) : (s.takeInterrupt k).t0c = s.t0c := rfl
@[simp] theorem State.takeInterrupt_t0run (k : Fin 8) : (s.takeInterrupt k).t0run = s.t0run := rfl
@[simp] theorem State.takeInterrupt_t1ra (k : Fin 8) : (s.takeInterrupt k).t1ra = s.t1ra := rfl
@[simp] theorem State.takeInterrupt_t1rb (k : Fin 8) : (s.takeInterrupt k).t1rb = s.t1rb := rfl
@[simp] theorem State.takeInterrupt_t1c (k : Fin 8) : (s.takeInterrupt k).t1c = s.t1c := rfl
@[simp] theorem State.takeInterrupt_t1run (k : Fin 8) : (s.takeInterrupt k).t1run = s.t1run := rfl
@[simp] theorem State.takeInterrupt_prescaler (k : Fin 8) : (s.takeInterrupt k).prescaler = s.prescaler := rfl
@[simp] theorem State.takeInterrupt_sio (k : Fin 8) : (s.takeInterrupt k).sio = s.sio := rfl
@[simp] theorem State.takeInterrupt_sio2 (k : Fin 8) : (s.takeInterrupt k).sio2 = s.sio2 := rfl
@[simp] theorem State.takeInterrupt_siorun (k : Fin 8) : (s.takeInterrupt k).siorun = s.siorun := rfl
@[simp] theorem State.takeInterrupt_pl (k : Fin 8) : (s.takeInterrupt k).pl = s.pl := rfl
@[simp] theorem State.takeInterrupt_inputModes (k : Fin 8) : (s.takeInterrupt k).inputModes = s.inputModes := rfl
@[simp] theorem State.takeInterrupt_cr (k : Fin 8) : (s.takeInterrupt k).cr = s.cr := rfl
@[simp] theorem State.takeInterrupt_ram (k : Fin 8) : (s.takeInterrupt k).ram = (s.pushFrame (frameWord s.cf s.zf s.pc)).ram := rfl
@[simp] theorem State.takeInterrupt_rom (k : Fin 8) : (s.takeInterrupt k).rom = s.rom := rfl
@[simp] theorem State.takeInterrupt_conf (k : Fin 8) : (s.takeInterrupt k).conf = s.conf := rfl
@[simp] theorem State.takeInterrupt_env (k : Fin 8) : (s.takeInterrupt k).env = s.env := rfl
@[simp] theorem State.takeInterrupt_draws (k : Fin 8) : (s.takeInterrupt k).draws = s.draws := rfl

/-! ### `setPair` -/

@[simp] theorem State.setPair_sp (r : PairReg) (hi lo : Nibble) : (s.setPair r hi lo).sp = s.sp := by cases r <;> rfl
@[simp] theorem State.setPair_pc (r : PairReg) (hi lo : Nibble) : (s.setPair r hi lo).pc = s.pc := by cases r <;> rfl
@[simp] theorem State.setPair_cf (r : PairReg) (hi lo : Nibble) : (s.setPair r hi lo).cf = s.cf := by cases r <;> rfl
@[simp] theorem State.setPair_zf (r : PairReg) (hi lo : Nibble) : (s.setPair r hi lo).zf = s.zf := by cases r <;> rfl
@[simp] theorem State.setPair_uf (r : PairReg) (hi lo : Nibble) : (s.setPair r hi lo).uf = s.uf := by cases r <;> rfl
@[simp] theorem State.setPair_mse (r : PairReg) (hi lo : Nibble) : (s.setPair r hi lo).mse = s.mse := by cases r <;> rfl
@[simp] theorem State.setPair_edih (r : PairReg) (hi lo : Nibble) : (s.setPair r hi lo).edih = s.edih := by cases r <;> rfl
@[simp] theorem State.setPair_edil (r : PairReg) (hi lo : Nibble) : (s.setPair r hi lo).edil = s.edil := by cases r <;> rfl
@[simp] theorem State.setPair_irq (r : PairReg) (hi lo : Nibble) : (s.setPair r hi lo).irq = s.irq := by cases r <;> rfl
@[simp] theorem State.setPair_mode (r : PairReg) (hi lo : Nibble) : (s.setPair r hi lo).mode = s.mode := by cases r <;> rfl
@[simp] theorem State.setPair_bnk (r : PairReg) (hi lo : Nibble) : (s.setPair r hi lo).bnk = s.bnk := by cases r <;> rfl
@[simp] theorem State.setPair_vsk (r : PairReg) (hi lo : Nibble) : (s.setPair r hi lo).vsk = s.vsk := by cases r <;> rfl
@[simp] theorem State.setPair_sbr (r : PairReg) (hi lo : Nibble) : (s.setPair r hi lo).sbr = s.sbr := by cases r <;> rfl
@[simp] theorem State.setPair_t0r (r : PairReg) (hi lo : Nibble) : (s.setPair r hi lo).t0r = s.t0r := by cases r <;> rfl
@[simp] theorem State.setPair_t0c (r : PairReg) (hi lo : Nibble) : (s.setPair r hi lo).t0c = s.t0c := by cases r <;> rfl
@[simp] theorem State.setPair_t0run (r : PairReg) (hi lo : Nibble) : (s.setPair r hi lo).t0run = s.t0run := by cases r <;> rfl
@[simp] theorem State.setPair_t1ra (r : PairReg) (hi lo : Nibble) : (s.setPair r hi lo).t1ra = s.t1ra := by cases r <;> rfl
@[simp] theorem State.setPair_t1rb (r : PairReg) (hi lo : Nibble) : (s.setPair r hi lo).t1rb = s.t1rb := by cases r <;> rfl
@[simp] theorem State.setPair_t1c (r : PairReg) (hi lo : Nibble) : (s.setPair r hi lo).t1c = s.t1c := by cases r <;> rfl
@[simp] theorem State.setPair_t1run (r : PairReg) (hi lo : Nibble) : (s.setPair r hi lo).t1run = s.t1run := by cases r <;> rfl
@[simp] theorem State.setPair_prescaler (r : PairReg) (hi lo : Nibble) : (s.setPair r hi lo).prescaler = s.prescaler := by cases r <;> rfl
@[simp] theorem State.setPair_sio (r : PairReg) (hi lo : Nibble) : (s.setPair r hi lo).sio = s.sio := by cases r <;> rfl
@[simp] theorem State.setPair_sio2 (r : PairReg) (hi lo : Nibble) : (s.setPair r hi lo).sio2 = s.sio2 := by cases r <;> rfl
@[simp] theorem State.setPair_siorun (r : PairReg) (hi lo : Nibble) : (s.setPair r hi lo).siorun = s.siorun := by cases r <;> rfl
@[simp] theorem State.setPair_pl (r : PairReg) (hi lo : Nibble) : (s.setPair r hi lo).pl = s.pl := by cases r <;> rfl
@[simp] theorem State.setPair_inputModes (r : PairReg) (hi lo : Nibble) : (s.setPair r hi lo).inputModes = s.inputModes := by cases r <;> rfl
@[simp] theorem State.setPair_cr (r : PairReg) (hi lo : Nibble) : (s.setPair r hi lo).cr = s.cr := by cases r <;> rfl
@[simp] theorem State.setPair_ram (r : PairReg) (hi lo : Nibble) : (s.setPair r hi lo).ram = s.ram := by cases r <;> rfl
@[simp] theorem State.setPair_rom (r : PairReg) (hi lo : Nibble) : (s.setPair r hi lo).rom = s.rom := by cases r <;> rfl
@[simp] theorem State.setPair_conf (r : PairReg) (hi lo : Nibble) : (s.setPair r hi lo).conf = s.conf := by cases r <;> rfl
@[simp] theorem State.setPair_env (r : PairReg) (hi lo : Nibble) : (s.setPair r hi lo).env = s.env := by cases r <;> rfl
@[simp] theorem State.setPair_draws (r : PairReg) (hi lo : Nibble) : (s.setPair r hi lo).draws = s.draws := by cases r <;> rfl

/-! ### `setLowPointerZ` -/

@[simp] theorem State.setLowPointerZ_ac (r : PtrReg) (v : Nibble) : (s.setLowPointerZ r v).ac = s.ac := by cases r <;> rfl
@[simp] theorem State.setLowPointerZ_e (r : PtrReg) (v : Nibble) : (s.setLowPointerZ r v).e = s.e := by cases r <;> rfl
@[simp] theorem State.setLowPointerZ_dph (r : PtrReg) (v : Nibble) : (s.setLowPointerZ r v).dph = s.dph := by cases r <;> rfl
@[simp] theorem State.setLowPointerZ_dpx (r : PtrReg) (v : Nibble) : (s.setLowPointerZ r v).dpx = s.dpx := by cases r <;> rfl
@[simp] theorem State.setLowPointerZ_sp (r : PtrReg) (v : Nibble) : (s.setLowPointerZ r v).sp = s.sp := by cases r <;> rfl
@[simp] theorem State.setLowPointerZ_pc (r : PtrReg) (v : Nibble) : (s.setLowPointerZ r v).pc = s.pc := by cases r <;> rfl
@[simp] theorem State.setLowPointerZ_cf (r : PtrReg) (v : Nibble) : (s.setLowPointerZ r v).cf = s.cf := by cases r <;> rfl
@[simp] theorem State.setLowPointerZ_zf (r : PtrReg) (v : Nibble) : (s.setLowPointerZ r v).zf = isZero v := by cases r <;> rfl
@[simp] theorem State.setLowPointerZ_uf (r : PtrReg) (v : Nibble) : (s.setLowPointerZ r v).uf = s.uf := by cases r <;> rfl
@[simp] theorem State.setLowPointerZ_mse (r : PtrReg) (v : Nibble) : (s.setLowPointerZ r v).mse = s.mse := by cases r <;> rfl
@[simp] theorem State.setLowPointerZ_edih (r : PtrReg) (v : Nibble) : (s.setLowPointerZ r v).edih = s.edih := by cases r <;> rfl
@[simp] theorem State.setLowPointerZ_edil (r : PtrReg) (v : Nibble) : (s.setLowPointerZ r v).edil = s.edil := by cases r <;> rfl
@[simp] theorem State.setLowPointerZ_irq (r : PtrReg) (v : Nibble) : (s.setLowPointerZ r v).irq = s.irq := by cases r <;> rfl
@[simp] theorem State.setLowPointerZ_mode (r : PtrReg) (v : Nibble) : (s.setLowPointerZ r v).mode = s.mode := by cases r <;> rfl
@[simp] theorem State.setLowPointerZ_bnk (r : PtrReg) (v : Nibble) : (s.setLowPointerZ r v).bnk = s.bnk := by cases r <;> rfl
@[simp] theorem State.setLowPointerZ_vsk (r : PtrReg) (v : Nibble) : (s.setLowPointerZ r v).vsk = s.vsk := by cases r <;> rfl
@[simp] theorem State.setLowPointerZ_sbr (r : PtrReg) (v : Nibble) : (s.setLowPointerZ r v).sbr = s.sbr := by cases r <;> rfl
@[simp] theorem State.setLowPointerZ_t0r (r : PtrReg) (v : Nibble) : (s.setLowPointerZ r v).t0r = s.t0r := by cases r <;> rfl
@[simp] theorem State.setLowPointerZ_t0c (r : PtrReg) (v : Nibble) : (s.setLowPointerZ r v).t0c = s.t0c := by cases r <;> rfl
@[simp] theorem State.setLowPointerZ_t0run (r : PtrReg) (v : Nibble) : (s.setLowPointerZ r v).t0run = s.t0run := by cases r <;> rfl
@[simp] theorem State.setLowPointerZ_t1ra (r : PtrReg) (v : Nibble) : (s.setLowPointerZ r v).t1ra = s.t1ra := by cases r <;> rfl
@[simp] theorem State.setLowPointerZ_t1rb (r : PtrReg) (v : Nibble) : (s.setLowPointerZ r v).t1rb = s.t1rb := by cases r <;> rfl
@[simp] theorem State.setLowPointerZ_t1c (r : PtrReg) (v : Nibble) : (s.setLowPointerZ r v).t1c = s.t1c := by cases r <;> rfl
@[simp] theorem State.setLowPointerZ_t1run (r : PtrReg) (v : Nibble) : (s.setLowPointerZ r v).t1run = s.t1run := by cases r <;> rfl
@[simp] theorem State.setLowPointerZ_prescaler (r : PtrReg) (v : Nibble) : (s.setLowPointerZ r v).prescaler = s.prescaler := by cases r <;> rfl
@[simp] theorem State.setLowPointerZ_sio (r : PtrReg) (v : Nibble) : (s.setLowPointerZ r v).sio = s.sio := by cases r <;> rfl
@[simp] theorem State.setLowPointerZ_sio2 (r : PtrReg) (v : Nibble) : (s.setLowPointerZ r v).sio2 = s.sio2 := by cases r <;> rfl
@[simp] theorem State.setLowPointerZ_siorun (r : PtrReg) (v : Nibble) : (s.setLowPointerZ r v).siorun = s.siorun := by cases r <;> rfl
@[simp] theorem State.setLowPointerZ_pl (r : PtrReg) (v : Nibble) : (s.setLowPointerZ r v).pl = s.pl := by cases r <;> rfl
@[simp] theorem State.setLowPointerZ_inputModes (r : PtrReg) (v : Nibble) : (s.setLowPointerZ r v).inputModes = s.inputModes := by cases r <;> rfl
@[simp] theorem State.setLowPointerZ_cr (r : PtrReg) (v : Nibble) : (s.setLowPointerZ r v).cr = s.cr := by cases r <;> rfl
@[simp] theorem State.setLowPointerZ_ram (r : PtrReg) (v : Nibble) : (s.setLowPointerZ r v).ram = s.ram := by cases r <;> rfl
@[simp] theorem State.setLowPointerZ_rom (r : PtrReg) (v : Nibble) : (s.setLowPointerZ r v).rom = s.rom := by cases r <;> rfl
@[simp] theorem State.setLowPointerZ_conf (r : PtrReg) (v : Nibble) : (s.setLowPointerZ r v).conf = s.conf := by cases r <;> rfl
@[simp] theorem State.setLowPointerZ_env (r : PtrReg) (v : Nibble) : (s.setLowPointerZ r v).env = s.env := by cases r <;> rfl
@[simp] theorem State.setLowPointerZ_draws (r : PtrReg) (v : Nibble) : (s.setLowPointerZ r v).draws = s.draws := by cases r <;> rfl

/-! ### `stepPointer` -/

@[simp] theorem State.stepPointer_ac (r : PtrReg) (d : Nibble) : (s.stepPointer r d).ac = s.ac := by cases r <;> rfl
@[simp] theorem State.stepPointer_e (r : PtrReg) (d : Nibble) : (s.stepPointer r d).e = s.e := by cases r <;> rfl
@[simp] theorem State.stepPointer_dph (r : PtrReg) (d : Nibble) : (s.stepPointer r d).dph = s.dph := by cases r <;> rfl
@[simp] theorem State.stepPointer_dpx (r : PtrReg) (d : Nibble) : (s.stepPointer r d).dpx = s.dpx := by cases r <;> rfl
@[simp] theorem State.stepPointer_sp (r : PtrReg) (d : Nibble) : (s.stepPointer r d).sp = s.sp := by cases r <;> rfl
@[simp] theorem State.stepPointer_pc (r : PtrReg) (d : Nibble) : (s.stepPointer r d).pc = s.pc := by cases r <;> rfl
@[simp] theorem State.stepPointer_cf (r : PtrReg) (d : Nibble) : (s.stepPointer r d).cf = s.cf := by cases r <;> rfl
@[simp] theorem State.stepPointer_zf (r : PtrReg) (d : Nibble) : (s.stepPointer r d).zf = isZero (s.lowPointer r + d) := by cases r <;> rfl
@[simp] theorem State.stepPointer_uf (r : PtrReg) (d : Nibble) : (s.stepPointer r d).uf = s.uf := by cases r <;> rfl
@[simp] theorem State.stepPointer_mse (r : PtrReg) (d : Nibble) : (s.stepPointer r d).mse = s.mse := by cases r <;> rfl
@[simp] theorem State.stepPointer_edih (r : PtrReg) (d : Nibble) : (s.stepPointer r d).edih = s.edih := by cases r <;> rfl
@[simp] theorem State.stepPointer_edil (r : PtrReg) (d : Nibble) : (s.stepPointer r d).edil = s.edil := by cases r <;> rfl
@[simp] theorem State.stepPointer_irq (r : PtrReg) (d : Nibble) : (s.stepPointer r d).irq = s.irq := by cases r <;> rfl
@[simp] theorem State.stepPointer_mode (r : PtrReg) (d : Nibble) : (s.stepPointer r d).mode = s.mode := by cases r <;> rfl
@[simp] theorem State.stepPointer_bnk (r : PtrReg) (d : Nibble) : (s.stepPointer r d).bnk = s.bnk := by cases r <;> rfl
@[simp] theorem State.stepPointer_vsk (r : PtrReg) (d : Nibble) : (s.stepPointer r d).vsk = s.vsk := by cases r <;> rfl
@[simp] theorem State.stepPointer_sbr (r : PtrReg) (d : Nibble) : (s.stepPointer r d).sbr = s.sbr := by cases r <;> rfl
@[simp] theorem State.stepPointer_t0r (r : PtrReg) (d : Nibble) : (s.stepPointer r d).t0r = s.t0r := by cases r <;> rfl
@[simp] theorem State.stepPointer_t0c (r : PtrReg) (d : Nibble) : (s.stepPointer r d).t0c = s.t0c := by cases r <;> rfl
@[simp] theorem State.stepPointer_t0run (r : PtrReg) (d : Nibble) : (s.stepPointer r d).t0run = s.t0run := by cases r <;> rfl
@[simp] theorem State.stepPointer_t1ra (r : PtrReg) (d : Nibble) : (s.stepPointer r d).t1ra = s.t1ra := by cases r <;> rfl
@[simp] theorem State.stepPointer_t1rb (r : PtrReg) (d : Nibble) : (s.stepPointer r d).t1rb = s.t1rb := by cases r <;> rfl
@[simp] theorem State.stepPointer_t1c (r : PtrReg) (d : Nibble) : (s.stepPointer r d).t1c = s.t1c := by cases r <;> rfl
@[simp] theorem State.stepPointer_t1run (r : PtrReg) (d : Nibble) : (s.stepPointer r d).t1run = s.t1run := by cases r <;> rfl
@[simp] theorem State.stepPointer_prescaler (r : PtrReg) (d : Nibble) : (s.stepPointer r d).prescaler = s.prescaler := by cases r <;> rfl
@[simp] theorem State.stepPointer_sio (r : PtrReg) (d : Nibble) : (s.stepPointer r d).sio = s.sio := by cases r <;> rfl
@[simp] theorem State.stepPointer_sio2 (r : PtrReg) (d : Nibble) : (s.stepPointer r d).sio2 = s.sio2 := by cases r <;> rfl
@[simp] theorem State.stepPointer_siorun (r : PtrReg) (d : Nibble) : (s.stepPointer r d).siorun = s.siorun := by cases r <;> rfl
@[simp] theorem State.stepPointer_pl (r : PtrReg) (d : Nibble) : (s.stepPointer r d).pl = s.pl := by cases r <;> rfl
@[simp] theorem State.stepPointer_inputModes (r : PtrReg) (d : Nibble) : (s.stepPointer r d).inputModes = s.inputModes := by cases r <;> rfl
@[simp] theorem State.stepPointer_cr (r : PtrReg) (d : Nibble) : (s.stepPointer r d).cr = s.cr := by cases r <;> rfl
@[simp] theorem State.stepPointer_ram (r : PtrReg) (d : Nibble) : (s.stepPointer r d).ram = s.ram := by cases r <;> rfl
@[simp] theorem State.stepPointer_rom (r : PtrReg) (d : Nibble) : (s.stepPointer r d).rom = s.rom := by cases r <;> rfl
@[simp] theorem State.stepPointer_conf (r : PtrReg) (d : Nibble) : (s.stepPointer r d).conf = s.conf := by cases r <;> rfl
@[simp] theorem State.stepPointer_env (r : PtrReg) (d : Nibble) : (s.stepPointer r d).env = s.env := by cases r <;> rfl
@[simp] theorem State.stepPointer_draws (r : PtrReg) (d : Nibble) : (s.stepPointer r d).draws = s.draws := by cases r <;> rfl

/-! ### The pair loads, register by register -/

@[simp] theorem State.setPair_hl (hi lo : Nibble) : s.setPair .hl hi lo = { s with dph := hi, dpl := lo } := rfl
@[simp] theorem State.setPair_xy (hi lo : Nibble) : s.setPair .xy hi lo = { s with dpx := hi, dpy := lo } := rfl
@[simp] theorem State.setPair_ae (hi lo : Nibble) : s.setPair .ae hi lo = { s with e := hi, ac := lo } := rfl
@[simp] theorem State.setLowPointerZ_hl (v : Nibble) : s.setLowPointerZ .hl v = { s with dpl := v, zf := isZero v } := rfl
@[simp] theorem State.setLowPointerZ_xy (v : Nibble) : s.setLowPointerZ .xy v = { s with dpy := v, zf := isZero v } := rfl
@[simp] theorem State.lowPointer_hl : s.lowPointer .hl = s.dpl := rfl
@[simp] theorem State.lowPointer_xy : s.lowPointer .xy = s.dpy := rfl
@[simp] theorem State.pointer_hl : s.pointer .hl = s.hl := rfl
@[simp] theorem State.pointer_xy : s.pointer .xy = s.xy := rfl

end Sys2Proof.Machine
end

