-- ==== Sys2Proof/Laws/Ops.lean ====
section
/-! SUPPORT. One lemma for each shared operation: everything it can do when it answers a next state. Proofs about
instructions cite these and unfold no operation. -/

namespace Sys2Proof.Machine

variable {s t : State}

/-! ### The end of an instruction -/

theorem advanceWith_next_iff (len : Nat) (b v : Bool) :
    advanceWith len b v s = .next t ↔ s.npcUsable len = true ∧ s.retire (s.npc len) b v = t := by
  unfold advanceWith
  split <;> simp_all

theorem advance_next_iff (len : Nat) :
    advance len s = .next t ↔ s.npcUsable len = true ∧ s.retire (s.npc len) false false = t :=
  advanceWith_next_iff len false false

theorem advance_of_usable (len : Nat) (h : s.npcUsable len = true) :
    advance len s = .next (s.retire (s.npc len) false false) := (advance_next_iff len).2 ⟨h, rfl⟩

theorem advanceWith_of_usable (len : Nat) (b v : Bool) (h : s.npcUsable len = true) :
    advanceWith len b v s = .next (s.retire (s.npc len) b v) := (advanceWith_next_iff len b v).2 ⟨h, rfl⟩

theorem jumpTo_next_iff (p : RomAddr) : jumpTo p s = .next t ↔ s.retire p false false = t := by
  simp [jumpTo]

theorem jumpInPage_next_iff (len : Nat) (low : Byte) :
    jumpInPage len low s = .next t ↔ s.npcInPage len = true ∧ s.retire (s.inPage len low) false false = t := by
  unfold jumpInPage
  split <;> simp_all [jumpTo]

/-- A branch is taken to the page of NPC, or goes on at NPC (R235). -/
theorem branch_next_iff (cond : Bool) (low : Byte) :
    branch cond low s = .next t ↔
      (cond = true ∧ s.npcInPage 2 = true ∧ s.retire (s.inPage 2 low) false false = t) ∨
        (cond = false ∧ s.npcUsable 2 = true ∧ s.retire (s.npc 2) false false = t) := by
  cases cond <;> simp [branch, advance_next_iff, jumpInPage_next_iff]

theorem execJmp_next_iff (a : BitVec 12) :
    execJmp a s = .next t ↔ s.npcUsable 2 = true ∧
      s.retire (BitVec.ofBool (s.pc.getLsbD 12 ^^ s.bnk) ++ a : RomAddr) false false = t := by
  unfold execJmp
  split <;> simp_all [jumpTo]

/-! ### Operands -/

theorem withAddr_next_iff (a8 : Byte) (k : RamAddr → Outcome) :
    withAddr s a8 k = .next t ↔ ∃ a, s.dataAddr a8 = some a ∧ k a = .next t := by
  unfold withAddr
  cases s.dataAddr a8 <;> simp

theorem withRam_next_iff (a : RamAddr) (k : Nibble → Outcome) :
    withRam s a k = .next t ↔ ∃ v, ramRead s.ram a = some v ∧ k v = .next t := by
  unfold withRam
  cases ramRead s.ram a <;> simp

theorem withWord_next_iff (a8 : Byte) (k : RamAddr → Nibble → Outcome) :
    withWord s a8 k = .next t ↔
      ∃ a v, s.dataAddr a8 = some a ∧ ramRead s.ram a = some v ∧ k a v = .next t := by
  simp only [withWord, withAddr_next_iff, withRam_next_iff]
  exact ⟨fun ⟨a, h, v, h'⟩ => ⟨a, v, h, h'⟩, fun ⟨a, v, h, h'⟩ => ⟨a, h, v, h'⟩⟩

theorem withWord_of_read {a8 : Byte} {a : RamAddr} {v : Nibble} (k : RamAddr → Nibble → Outcome)
    (ha : s.dataAddr a8 = some a) (hv : ramRead s.ram a = some v) : withWord s a8 k = k a v := by
  simp [withWord, withAddr, withRam, ha, hv]

theorem withAddr_of_addr {a8 : Byte} {a : RamAddr} (k : RamAddr → Outcome) (ha : s.dataAddr a8 = some a) :
    withAddr s a8 k = k a := by
  simp [withAddr, ha]

theorem withAddr2_next_iff (k : RamAddr → RamAddr → Outcome) :
    withAddr2 s k = .next t ↔ s.dpl.getLsbD 0 = false ∧
      ∃ lo hi, s.dataAddr s.hl = some lo ∧ s.dataAddr s.hlOdd = some hi ∧ k lo hi = .next t := by
  unfold withAddr2
  cases h : s.dpl.getLsbD 0 <;> simp [withAddr_next_iff]

theorem withTableByte_next_iff (k : Byte → Outcome) :
    withTableByte s k = .next t ↔
      s.npcInPage 1 = true ∧ ∃ b, romRead s (s.inPage 1 s.ea) = .ok b ∧ k b = .next t := by
  unfold withTableByte
  cases hp : s.npcInPage 1
  · simp
  · cases h : romRead s (s.inPage 1 s.ea) <;> simp

/-! ### Ports -/

/-- A port is read from the pins and draws a free value, or after BANK from the register bank. -/
theorem withPort_next_iff (p : Nibble) (k : Nibble → State → Outcome) :
    withPort s p k = .next t ↔
      (s.bnk = false ∧ k (s.pinLevels p) { s with draws := s.draws + 1 } = .next t) ∨
        (s.bnk = true ∧ ∃ v, s.crRead p = some v ∧ k v s = .next t) := by
  unfold withPort
  cases s.bnk
  · simp
  · cases s.crRead p <;> simp

/-- A port write changes one latch, or after BANK what the register bank's entry stands for. -/
theorem portWrite_next_iff (p v : Nibble) (k : State → Outcome) :
    portWrite s p v k = .next t ↔
      (s.bnk = false ∧ ∃ j, latchIndex p = some j ∧ k { s with pl := s.pl.set j v } = .next t) ∨
        (s.bnk = true ∧ ∃ s', s.crWrite p v = some s' ∧ k s' = .next t) := by
  unfold portWrite
  cases s.bnk
  · cases latchIndex p <;> simp
  · cases s.crWrite p v <;> simp

/-- The old value of a read-modify-write is the latch, the pins, or after BANK the register. -/
theorem withPortOld_next_iff (p : Nibble) (k : Nibble → State → Outcome) :
    withPortOld s p k = .next t ↔
      (s.bnk = false ∧ s.conf.portRmw = .latch ∧ ∃ j, latchIndex p = some j ∧ k s.pl[j] s = .next t) ∨
        (s.bnk = false ∧ s.conf.portRmw = .pins ∧
          k (s.pinLevels p) { s with draws := s.draws + 1 } = .next t) ∨
        (s.bnk = true ∧ ∃ v, s.crRead p = some v ∧ k v s = .next t) := by
  unfold withPortOld
  cases hb : s.bnk
  · cases hr : s.conf.portRmw
    · cases latchIndex p <;> simp
    · simp [withPort_next_iff, hb]
  · simp [withPort_next_iff, hb]

/-- The state that a bit of `CR_MAP` can stand for is all that storing it changes (R44). -/
def crOnly (s t : State) : State :=
  { s with cr := t.cr, edih := t.edih, edil := t.edil, irq := t.irq, t0r := t.t0r, t0c := t.t0c, t0run := t.t0run,
           t1ra := t.t1ra, t1rb := t.t1rb, t1c := t.t1c, t1run := t.t1run, sio := t.sio, sio2 := t.sio2,
           siorun := t.siorun, pl := t.pl, inputModes := t.inputModes }

theorem crBitStore_changes (s : State) (n : Nibble) (b : Fin 4) (v : Bool) (c : CrBit) :
    crBitStore s n b v c = crOnly s (crBitStore s n b v c) := by
  cases c <;> rfl

theorem crStore_changes (s : State) (n v : Nibble) (bits : Vector CrBit 4) :
    crStore s n v bits = crOnly s (crStore s n v bits) := by
  simp only [crStore, List.foldl]
  rw [crBitStore_changes _ n 3, crBitStore_changes _ n 2, crBitStore_changes _ n 1, crBitStore_changes s n 0]
  rfl

/-- A register-bank write changes only the state that an entry of `CR_MAP` can stand for (R44). -/
theorem crWrite_changes {n v : Nibble} (h : s.crWrite n v = some t) : t = crOnly s t := by
  unfold State.crWrite at h
  split at h
  · split at h
    · injection h with h
      rw [← h]
      exact crStore_changes _ _ _ _
    · exact absurd h (by simp)
  · exact absurd h (by simp)

/-! ### The stack -/

theorem call_next_iff (len : Nat) (p : RomAddr) :
    call len p s = .next t ↔ s.npcUsable len = true ∧
      (s.pushFrame (frameWord s.cf s.zf (s.npc len))).retire p false false = t := by
  unfold call
  split <;> simp_all [jumpTo]

theorem withPoppedFrame_next_iff (k : BitVec 16 → State → Outcome) :
    withPoppedFrame s k = .next t ↔
      ∃ w, (s.raiseSp 4).frameAtSp = some w ∧ k w (s.raiseSp 4) = .next t := by
  unfold withPoppedFrame
  cases (s.raiseSp 4).frameAtSp <;> simp

theorem returnPlain_next_iff :
    returnPlain s = .next t ↔
      ∃ w, (s.raiseSp 4).frameAtSp = some w ∧
        (s.raiseSp 4).retire (framePc w) false false = t := by
  simp [returnPlain, withPoppedFrame_next_iff, jumpTo]

theorem returnFromInterrupt_next_iff :
    returnFromInterrupt s = .next t ↔
      ∃ w, (s.raiseSp 4).frameAtSp = some w ∧
        ({ s.raiseSp 4 with cf := frameCf w, zf := frameZf w,
                                mse := s.conf.entryEffects.rtiSetsMaster || s.mse } : State).retire (framePc w) false false = t := by
  simp [returnFromInterrupt, withPoppedFrame_next_iff, jumpTo]

/-- Pushing a frame stores four words of the stack bank and lowers SP: nothing else changes. -/
theorem pushFrame_eq (w : BitVec 16) :
    s.pushFrame w = { s with ram := (s.pushFrame w).ram, sp := s.sp - 4 } := rfl

theorem pushFrame_ramWf (w : BitVec 16) (h : s.ram.ramWf = true) : (s.pushFrame w).ram.ramWf = true := by
  simp only [State.pushFrame]
  exact ramWrite_ramWf _ _ _ (ramWrite_ramWf _ _ _ (ramWrite_ramWf _ _ _ (ramWrite_ramWf _ _ _ h)))

/-- A word of RAM outside the four cells of the frame reads as before. -/
theorem pushFrame_ram_other (w : BitVec 16) (a : RamAddr) (h0 : a ≠ s.stackAddr 0) (h1 : a ≠ s.stackAddr 1)
    (h2 : a ≠ s.stackAddr 2) (h3 : a ≠ s.stackAddr 3) :
    ramRead (s.pushFrame w).ram a = ramRead s.ram a := by
  simp only [State.pushFrame]
  rw [ramRead_ramWrite_other _ _ _ _ h3, ramRead_ramWrite_other _ _ _ _ h2, ramRead_ramWrite_other _ _ _ _ h1,
    ramRead_ramWrite_other _ _ _ _ h0]

/-! ### The boundary and the step -/

theorem chooseIrq_none_of_master_off (h : s.mse = false) : s.chooseIrq = none := by
  simp [State.chooseIrq, h]

theorem irqChoice_take_iff (k : Fin 8) :
    s.irqChoice = .take k ↔ s.chooseIrq = some k ∧ s.bnk = false ∧ s.vsk = false := by
  unfold State.irqChoice
  cases hc : s.chooseIrq with
  | none => simp
  | some j =>
    cases hb : s.bnk <;> cases hv : s.vsk <;> simp
    all_goals cases s.conf.irqWindow <;> simp

/-- What a step in RUN mode does at its boundary. -/
theorem runStep_next (h : runStep s = .next t) :
    (∃ k, s.irqChoice = .take k ∧ t = s.takeInterrupt k) ∨
      (s.irqChoice = .none ∧ ∃ i, fetch s = .ok i ∧ exec i s = .next t) := by
  unfold runStep at h
  split at h
  · exact absurd h (by simp)
  · rename_i k hk
    injection h with h
    exact .inl ⟨k, hk, h.symm⟩
  · rename_i hk
    unfold runInstr at h
    split at h
    · rename_i i hi
      exact .inr ⟨hk, i, hi, h⟩
    · exact absurd h (by simp)

theorem haltStep_next {release : Bool} (h : haltStep release s = .next t) :
    (∃ k, s.irqChoice = .take k ∧ t = { s.takeInterrupt k with mode := .run }) ∨
      (s.irqChoice = .none ∧ t = { s with mode := if release then .run else s.mode }) := by
  unfold haltStep at h
  split at h
  · exact absurd h (by simp)
  · rename_i k hk
    injection h with h
    exact .inl ⟨k, hk, h.symm⟩
  · rename_i hk
    injection h with h
    exact .inr ⟨hk, h.symm⟩

/-- Everything a step can do (R112, R330). -/
theorem step_next (h : step s = .next t) :
    (s.resetOccurs = true ∧ t = s.afterReset) ∨
      (s.resetOccurs = false ∧
        ((s.mode = .run ∧ runStep s.atBoundary = .next t) ∨
          (s.mode = .halt ∧ haltStep s.env.haltRelease s.atBoundary = .next t) ∨
          (s.mode = .hold ∧ holdStep s = .next t))) := by
  unfold step at h
  split at h
  · rename_i hr
    injection h with h
    exact .inl ⟨hr, h.symm⟩
  · rename_i hr
    refine .inr ⟨by simpa using hr, ?_⟩
    split at h
    · rename_i hm; exact .inl ⟨hm, h⟩
    · rename_i hm; exact .inr (.inl ⟨hm, h⟩)
    · rename_i hm; exact .inr (.inr ⟨hm, h⟩)

end Sys2Proof.Machine
end

