-- ==== Sys2Proof/Laws/PerInstr.lean ====
section
/-! SUPPORT. Statements made for each instruction. EncodingSize: an instruction's first byte alone gives its length
(R91), and that length is the table's number of bytes, as many as the encoder writes under any `ENC2`. -/

namespace Sys2Proof.Laws

/-- Under any `ENC2` the encoding has as many bytes as the instruction's size, and the length rule R91 gives that size from
its first byte. -/
def EncodingSize.Statement (i : Instr) : Prop :=
  ∀ e : Enc2, ∃ b rest, encode e i = b :: rest ∧ rest.length + 1 = i.size ∧ instrLength b = some i.size

theorem EncodingSize.cla : EncodingSize.Statement .cla := fun _ => ⟨_, _, rfl, rfl, rfl⟩
theorem EncodingSize.daa : EncodingSize.Statement .daa := fun _ => ⟨_, _, rfl, rfl, rfl⟩
theorem EncodingSize.das : EncodingSize.Statement .das := fun _ => ⟨_, _, rfl, rfl, rfl⟩
theorem EncodingSize.clc : EncodingSize.Statement .clc := fun _ => ⟨_, _, rfl, rfl, rfl⟩
theorem EncodingSize.stc : EncodingSize.Statement .stc := fun _ => ⟨_, _, rfl, rfl, rfl⟩
theorem EncodingSize.cma : EncodingSize.Statement .cma := fun _ => ⟨_, _, rfl, rfl, rfl⟩
theorem EncodingSize.ia : EncodingSize.Statement .ia := fun _ => ⟨_, _, rfl, rfl, rfl⟩
theorem EncodingSize.da : EncodingSize.Statement .da := fun _ => ⟨_, _, rfl, rfl, rfl⟩
theorem EncodingSize.rar : EncodingSize.Statement .rar := fun _ => ⟨_, _, rfl, rfl, rfl⟩
theorem EncodingSize.ral : EncodingSize.Statement .ral := fun _ => ⟨_, _, rfl, rfl, rfl⟩
theorem EncodingSize.tae : EncodingSize.Statement .tae := fun _ => ⟨_, _, rfl, rfl, rfl⟩
theorem EncodingSize.tea : EncodingSize.Statement .tea := fun _ => ⟨_, _, rfl, rfl, rfl⟩
theorem EncodingSize.xae : EncodingSize.Statement .xae := fun _ => ⟨_, _, rfl, rfl, rfl⟩
theorem EncodingSize.im : EncodingSize.Statement .im := fun _ => ⟨_, _, rfl, rfl, rfl⟩
theorem EncodingSize.dm : EncodingSize.Statement .dm := fun _ => ⟨_, _, rfl, rfl, rfl⟩
theorem EncodingSize.imdr (i8 : Byte) : EncodingSize.Statement (.imdr i8) := fun _ => ⟨_, _, rfl, rfl, rfl⟩
theorem EncodingSize.dmdr (i8 : Byte) : EncodingSize.Statement (.dmdr i8) := fun _ => ⟨_, _, rfl, rfl, rfl⟩
theorem EncodingSize.smb (t : BitVec 2) : EncodingSize.Statement (.smb t) := by
  refine fun _ => ⟨_, _, rfl, rfl, ?_⟩
  show instrLength _ = some 1
  revert t
  decide
theorem EncodingSize.rmb (t : BitVec 2) : EncodingSize.Statement (.rmb t) := by
  refine fun _ => ⟨_, _, rfl, rfl, ?_⟩
  show instrLength _ = some 1
  revert t
  decide
theorem EncodingSize.ad : EncodingSize.Statement .ad := fun _ => ⟨_, _, rfl, rfl, rfl⟩
theorem EncodingSize.addr (i8 : Byte) : EncodingSize.Statement (.addr i8) := fun _ => ⟨_, _, rfl, rfl, rfl⟩
theorem EncodingSize.adc : EncodingSize.Statement .adc := fun _ => ⟨_, _, rfl, rfl, rfl⟩
theorem EncodingSize.adi (i : Nibble) : EncodingSize.Statement (.adi i) := fun _ => ⟨_, _, rfl, rfl, rfl⟩
theorem EncodingSize.subc : EncodingSize.Statement .subc := fun _ => ⟨_, _, rfl, rfl, rfl⟩
theorem EncodingSize.anda : EncodingSize.Statement .anda := fun _ => ⟨_, _, rfl, rfl, rfl⟩
theorem EncodingSize.ora : EncodingSize.Statement .ora := fun _ => ⟨_, _, rfl, rfl, rfl⟩
theorem EncodingSize.exl : EncodingSize.Statement .exl := fun _ => ⟨_, _, rfl, rfl, rfl⟩
theorem EncodingSize.andm : EncodingSize.Statement .andm := fun _ => ⟨_, _, rfl, rfl, rfl⟩
theorem EncodingSize.orm : EncodingSize.Statement .orm := fun _ => ⟨_, _, rfl, rfl, rfl⟩
theorem EncodingSize.cm : EncodingSize.Statement .cm := fun _ => ⟨_, _, rfl, rfl, rfl⟩
theorem EncodingSize.ci (i : Nibble) : EncodingSize.Statement (.ci i) := fun e => ⟨_, _, rfl, rfl, instrLength_prefixByte e.ci.page⟩
theorem EncodingSize.cli (i : Nibble) : EncodingSize.Statement (.cli i) := fun e => ⟨_, _, rfl, rfl, instrLength_prefixByte e.cli.page⟩
theorem EncodingSize.cmb (t : BitVec 2) : EncodingSize.Statement (.cmb t) := fun e => ⟨_, _, rfl, rfl, instrLength_prefixByte e.cmb.page⟩
theorem EncodingSize.lai (i : Nibble) : EncodingSize.Statement (.lai i) := by
  refine fun _ => ⟨_, _, rfl, rfl, ?_⟩
  show instrLength _ = some 1
  revert i
  decide
theorem EncodingSize.lae : EncodingSize.Statement .lae := fun _ => ⟨_, _, rfl, rfl, rfl⟩
theorem EncodingSize.ladr (i8 : Byte) : EncodingSize.Statement (.ladr i8) := fun _ => ⟨_, _, rfl, rfl, rfl⟩
theorem EncodingSize.s : EncodingSize.Statement .s := fun _ => ⟨_, _, rfl, rfl, rfl⟩
theorem EncodingSize.sae : EncodingSize.Statement .sae := fun _ => ⟨_, _, rfl, rfl, rfl⟩
theorem EncodingSize.la (r : PtrReg) : EncodingSize.Statement (.la r) := by
  cases r <;> exact fun _ => ⟨_, _, rfl, rfl, rfl⟩
theorem EncodingSize.laI (r : PtrReg) : EncodingSize.Statement (.laI r) := by
  cases r <;> exact fun _ => ⟨_, _, rfl, rfl, rfl⟩
theorem EncodingSize.laD (r : PtrReg) : EncodingSize.Statement (.laD r) := by
  cases r <;> exact fun _ => ⟨_, _, rfl, rfl, rfl⟩
theorem EncodingSize.xa (r : PtrReg) : EncodingSize.Statement (.xa r) := by
  cases r <;> exact fun _ => ⟨_, _, rfl, rfl, rfl⟩
theorem EncodingSize.xaI (r : PtrReg) : EncodingSize.Statement (.xaI r) := by
  cases r <;> exact fun _ => ⟨_, _, rfl, rfl, rfl⟩
theorem EncodingSize.xaD (r : PtrReg) : EncodingSize.Statement (.xaD r) := by
  cases r <;> exact fun _ => ⟨_, _, rfl, rfl, rfl⟩
theorem EncodingSize.xadr (i8 : Byte) : EncodingSize.Statement (.xadr i8) := fun _ => ⟨_, _, rfl, rfl, rfl⟩
theorem EncodingSize.leai (i8 : Byte) : EncodingSize.Statement (.leai i8) := fun _ => ⟨_, _, rfl, rfl, rfl⟩
theorem EncodingSize.rtbl : EncodingSize.Statement .rtbl := fun _ => ⟨_, _, rfl, rfl, rfl⟩
theorem EncodingSize.rtblp : EncodingSize.Statement .rtblp := fun _ => ⟨_, _, rfl, rfl, rfl⟩
theorem EncodingSize.ldz (i : Nibble) : EncodingSize.Statement (.ldz i) := by
  refine fun _ => ⟨_, _, rfl, rfl, ?_⟩
  show instrLength _ = some 1
  revert i
  decide
theorem EncodingSize.lhi (i : Nibble) : EncodingSize.Statement (.lhi i) := fun e => ⟨_, _, rfl, rfl, instrLength_prefixByte e.lhi.page⟩
theorem EncodingSize.lli (i : Nibble) : EncodingSize.Statement (.lli i) := fun e => ⟨_, _, rfl, rfl, instrLength_prefixByte e.lli.page⟩
theorem EncodingSize.lhli (i8 : Byte) : EncodingSize.Statement (.lhli i8) := fun _ => ⟨_, _, rfl, rfl, rfl⟩
theorem EncodingSize.lxyi (i8 : Byte) : EncodingSize.Statement (.lxyi i8) := fun _ => ⟨_, _, rfl, rfl, rfl⟩
theorem EncodingSize.il : EncodingSize.Statement .il := fun _ => ⟨_, _, rfl, rfl, rfl⟩
theorem EncodingSize.dl : EncodingSize.Statement .dl := fun _ => ⟨_, _, rfl, rfl, rfl⟩
theorem EncodingSize.iy : EncodingSize.Statement .iy := fun _ => ⟨_, _, rfl, rfl, rfl⟩
theorem EncodingSize.dy : EncodingSize.Statement .dy := fun _ => ⟨_, _, rfl, rfl, rfl⟩
theorem EncodingSize.tah : EncodingSize.Statement .tah := fun _ => ⟨_, _, rfl, rfl, rfl⟩
theorem EncodingSize.tha : EncodingSize.Statement .tha := fun _ => ⟨_, _, rfl, rfl, rfl⟩
theorem EncodingSize.xah : EncodingSize.Statement .xah := fun _ => ⟨_, _, rfl, rfl, rfl⟩
theorem EncodingSize.tal : EncodingSize.Statement .tal := fun _ => ⟨_, _, rfl, rfl, rfl⟩
theorem EncodingSize.tla : EncodingSize.Statement .tla := fun _ => ⟨_, _, rfl, rfl, rfl⟩
theorem EncodingSize.xal : EncodingSize.Statement .xal := fun _ => ⟨_, _, rfl, rfl, rfl⟩
theorem EncodingSize.tax : EncodingSize.Statement .tax := fun _ => ⟨_, _, rfl, rfl, rfl⟩
theorem EncodingSize.txa : EncodingSize.Statement .txa := fun _ => ⟨_, _, rfl, rfl, rfl⟩
theorem EncodingSize.xax : EncodingSize.Statement .xax := fun _ => ⟨_, _, rfl, rfl, rfl⟩
theorem EncodingSize.tay : EncodingSize.Statement .tay := fun _ => ⟨_, _, rfl, rfl, rfl⟩
theorem EncodingSize.tya : EncodingSize.Statement .tya := fun _ => ⟨_, _, rfl, rfl, rfl⟩
theorem EncodingSize.xay : EncodingSize.Statement .xay := fun _ => ⟨_, _, rfl, rfl, rfl⟩
theorem EncodingSize.sfb (n : Nibble) : EncodingSize.Statement (.sfb n) := by
  refine fun _ => ⟨_, _, rfl, rfl, ?_⟩
  show instrLength _ = some 1
  revert n
  decide
theorem EncodingSize.rfb (n : Nibble) : EncodingSize.Statement (.rfb n) := by
  refine fun _ => ⟨_, _, rfl, rfl, ?_⟩
  show instrLength _ = some 1
  revert n
  decide
theorem EncodingSize.jmp (a : BitVec 12) : EncodingSize.Statement (.jmp a) := by
  refine fun _ => ⟨_, _, rfl, rfl, ?_⟩
  show instrLength _ = some 2
  generalize a.extractLsb' 8 4 = x
  revert x
  decide
theorem EncodingSize.jpea : EncodingSize.Statement .jpea := fun _ => ⟨_, _, rfl, rfl, rfl⟩
theorem EncodingSize.cal (a : BitVec 11) : EncodingSize.Statement (.cal a) := by
  refine fun _ => ⟨_, _, rfl, rfl, ?_⟩
  show instrLength _ = some 2
  generalize a.extractLsb' 8 3 = x
  revert x
  decide
theorem EncodingSize.czp (p : Nibble) : EncodingSize.Statement (.czp p) := by
  refine fun _ => ⟨_, _, rfl, rfl, ?_⟩
  show instrLength _ = some 1
  revert p
  decide
theorem EncodingSize.bank : EncodingSize.Statement .bank := fun _ => ⟨_, _, rfl, rfl, rfl⟩
theorem EncodingSize.push (r : PairReg) : EncodingSize.Statement (.push r) := fun _ => ⟨_, _, rfl, rfl, rfl⟩
theorem EncodingSize.pop (r : PairReg) : EncodingSize.Statement (.pop r) := fun _ => ⟨_, _, rfl, rfl, rfl⟩
theorem EncodingSize.rt : EncodingSize.Statement .rt := fun _ => ⟨_, _, rfl, rfl, rfl⟩
theorem EncodingSize.rti : EncodingSize.Statement .rti := fun _ => ⟨_, _, rfl, rfl, rfl⟩
theorem EncodingSize.ba (t : BitVec 2) (p : Byte) : EncodingSize.Statement (.ba t p) := by
  refine fun _ => ⟨_, _, rfl, rfl, ?_⟩
  show instrLength _ = some 2
  revert t
  decide
theorem EncodingSize.bna (t : BitVec 2) (p : Byte) : EncodingSize.Statement (.bna t p) := by
  refine fun _ => ⟨_, _, rfl, rfl, ?_⟩
  show instrLength _ = some 2
  revert t
  decide
theorem EncodingSize.bm (t : BitVec 2) (p : Byte) : EncodingSize.Statement (.bm t p) := by
  refine fun _ => ⟨_, _, rfl, rfl, ?_⟩
  show instrLength _ = some 2
  revert t
  decide
theorem EncodingSize.bnm (t : BitVec 2) (p : Byte) : EncodingSize.Statement (.bnm t p) := by
  refine fun _ => ⟨_, _, rfl, rfl, ?_⟩
  show instrLength _ = some 2
  revert t
  decide
theorem EncodingSize.bp (t : BitVec 2) (p : Byte) : EncodingSize.Statement (.bp t p) := by
  refine fun _ => ⟨_, _, rfl, rfl, ?_⟩
  show instrLength _ = some 2
  revert t
  decide
theorem EncodingSize.bnp (t : BitVec 2) (p : Byte) : EncodingSize.Statement (.bnp t p) := by
  refine fun _ => ⟨_, _, rfl, rfl, ?_⟩
  show instrLength _ = some 2
  revert t
  decide
theorem EncodingSize.bc (p : Byte) : EncodingSize.Statement (.bc p) := fun _ => ⟨_, _, rfl, rfl, rfl⟩
theorem EncodingSize.bnc (p : Byte) : EncodingSize.Statement (.bnc p) := fun _ => ⟨_, _, rfl, rfl, rfl⟩
theorem EncodingSize.bz (p : Byte) : EncodingSize.Statement (.bz p) := fun _ => ⟨_, _, rfl, rfl, rfl⟩
theorem EncodingSize.bnz (p : Byte) : EncodingSize.Statement (.bnz p) := fun _ => ⟨_, _, rfl, rfl, rfl⟩
theorem EncodingSize.bf (n : Nibble) (p : Byte) : EncodingSize.Statement (.bf n p) := by
  refine fun _ => ⟨_, _, rfl, rfl, ?_⟩
  show instrLength _ = some 2
  revert n
  decide
theorem EncodingSize.bnf (n : Nibble) (p : Byte) : EncodingSize.Statement (.bnf n p) := by
  refine fun _ => ⟨_, _, rfl, rfl, ?_⟩
  show instrLength _ = some 2
  revert n
  decide
theorem EncodingSize.ip0 : EncodingSize.Statement .ip0 := fun _ => ⟨_, _, rfl, rfl, rfl⟩
theorem EncodingSize.ip : EncodingSize.Statement .ip := fun _ => ⟨_, _, rfl, rfl, rfl⟩
theorem EncodingSize.ipm : EncodingSize.Statement .ipm := fun _ => ⟨_, _, rfl, rfl, rfl⟩
theorem EncodingSize.ipdr (i : Nibble) : EncodingSize.Statement (.ipdr i) := fun e => ⟨_, _, rfl, rfl, instrLength_prefixByte e.ipdr.page⟩
theorem EncodingSize.ip45 : EncodingSize.Statement .ip45 := fun e => ⟨_, _, rfl, rfl, instrLength_prefixByte e.ip45.page⟩
theorem EncodingSize.op : EncodingSize.Statement .op := fun _ => ⟨_, _, rfl, rfl, rfl⟩
theorem EncodingSize.opm : EncodingSize.Statement .opm := fun _ => ⟨_, _, rfl, rfl, rfl⟩
theorem EncodingSize.opdr (i : Nibble) : EncodingSize.Statement (.opdr i) := fun e => ⟨_, _, rfl, rfl, instrLength_prefixByte e.opdr.page⟩
theorem EncodingSize.op45 : EncodingSize.Statement .op45 := fun e => ⟨_, _, rfl, rfl, instrLength_prefixByte e.op45.page⟩
theorem EncodingSize.spb (t : BitVec 2) : EncodingSize.Statement (.spb t) := by
  refine fun _ => ⟨_, _, rfl, rfl, ?_⟩
  show instrLength _ = some 1
  revert t
  decide
theorem EncodingSize.rpb (t : BitVec 2) : EncodingSize.Statement (.rpb t) := by
  refine fun _ => ⟨_, _, rfl, rfl, ?_⟩
  show instrLength _ = some 1
  revert t
  decide
theorem EncodingSize.andpdr (i : Nibble) (p : Nibble) : EncodingSize.Statement (.andpdr i p) := fun _ => ⟨_, _, rfl, rfl, rfl⟩
theorem EncodingSize.orpdr (i : Nibble) (p : Nibble) : EncodingSize.Statement (.orpdr i p) := fun _ => ⟨_, _, rfl, rfl, rfl⟩
theorem EncodingSize.wttm0 : EncodingSize.Statement .wttm0 := fun _ => ⟨_, _, rfl, rfl, rfl⟩
theorem EncodingSize.wttm1 : EncodingSize.Statement .wttm1 := fun e => ⟨_, _, rfl, rfl, instrLength_prefixByte e.wttm1.page⟩
theorem EncodingSize.rtim0 : EncodingSize.Statement .rtim0 := fun _ => ⟨_, _, rfl, rfl, rfl⟩
theorem EncodingSize.rtim1 : EncodingSize.Statement .rtim1 := fun e => ⟨_, _, rfl, rfl, instrLength_prefixByte e.rtim1.page⟩
theorem EncodingSize.start0 : EncodingSize.Statement .start0 := fun e => ⟨_, _, rfl, rfl, instrLength_prefixByte e.start0.page⟩
theorem EncodingSize.start1 : EncodingSize.Statement .start1 := fun e => ⟨_, _, rfl, rfl, instrLength_prefixByte e.start1.page⟩
theorem EncodingSize.stop0 : EncodingSize.Statement .stop0 := fun e => ⟨_, _, rfl, rfl, instrLength_prefixByte e.stop0.page⟩
theorem EncodingSize.stop1 : EncodingSize.Statement .stop1 := fun e => ⟨_, _, rfl, rfl, instrLength_prefixByte e.stop1.page⟩
theorem EncodingSize.mset : EncodingSize.Statement .mset := fun e => ⟨_, _, rfl, rfl, instrLength_prefixByte e.mset.page⟩
theorem EncodingSize.mreset : EncodingSize.Statement .mreset := fun e => ⟨_, _, rfl, rfl, instrLength_prefixByte e.mreset.page⟩
theorem EncodingSize.eih (i : Nibble) : EncodingSize.Statement (.eih i) := fun e => ⟨_, _, rfl, rfl, instrLength_prefixByte e.eih.page⟩
theorem EncodingSize.eil (i : Nibble) : EncodingSize.Statement (.eil i) := fun e => ⟨_, _, rfl, rfl, instrLength_prefixByte e.eil.page⟩
theorem EncodingSize.dih (i : Nibble) : EncodingSize.Statement (.dih i) := fun e => ⟨_, _, rfl, rfl, instrLength_prefixByte e.dih.page⟩
theorem EncodingSize.dil (i : Nibble) : EncodingSize.Statement (.dil i) := fun e => ⟨_, _, rfl, rfl, instrLength_prefixByte e.dil.page⟩
theorem EncodingSize.wtsp : EncodingSize.Statement .wtsp := fun e => ⟨_, _, rfl, rfl, instrLength_prefixByte e.wtsp.page⟩
theorem EncodingSize.rsp : EncodingSize.Statement .rsp := fun e => ⟨_, _, rfl, rfl, instrLength_prefixByte e.rsp.page⟩
theorem EncodingSize.halt : EncodingSize.Statement .halt := fun e => ⟨_, _, rfl, rfl, instrLength_prefixByte e.halt.page⟩
theorem EncodingSize.hold : EncodingSize.Statement .hold := fun e => ⟨_, _, rfl, rfl, instrLength_prefixByte e.hold.page⟩
theorem EncodingSize.starts : EncodingSize.Statement .starts := fun e => ⟨_, _, rfl, rfl, instrLength_prefixByte e.starts.page⟩
theorem EncodingSize.wtsio : EncodingSize.Statement .wtsio := fun e => ⟨_, _, rfl, rfl, instrLength_prefixByte e.wtsio.page⟩
theorem EncodingSize.rsio : EncodingSize.Statement .rsio := fun e => ⟨_, _, rfl, rfl, instrLength_prefixByte e.rsio.page⟩
theorem EncodingSize.nop : EncodingSize.Statement .nop := fun _ => ⟨_, _, rfl, rfl, rfl⟩
theorem EncodingSize.sb (i : BitVec 2) : EncodingSize.Statement (.sb i) := fun e => ⟨_, _, rfl, rfl, instrLength_prefixByte e.sb.page⟩

end Sys2Proof.Laws
end

