-- ==== Sys2Proof/Laws/Vocabulary.lean ====
section
/-! SUPPORT. Lemmas that join the operations of the model to the words of Safety.lean: where an instruction ends, which
cells a store writes, and the words of frames and pairs as numbers. -/

namespace Sys2Proof.Machine

variable {s : State}

/-! ### Bits as numbers -/

theorem toNat_append_eq {n m : Nat} (x : BitVec n) (y : BitVec m) : (x ++ y).toNat = x.toNat * 2 ^ m + y.toNat := by
  rw [BitVec.toNat_append, ← Nat.shiftLeft_add_eq_or_of_lt y.isLt, Nat.shiftLeft_eq]

theorem hiNibble_eq_div (b : Byte) : hiNibble b = BitVec.ofNat 4 (b.toNat / 16) := by
  revert b
  decide

theorem loNibble_eq_mod (b : Byte) : loNibble b = BitVec.ofNat 4 (b.toNat % 16) := by
  revert b
  decide

theorem frameWord_eq_frameOf (cf zf : Bool) (pc : RomAddr) : frameWord cf zf pc = frameOf cf zf pc := by
  apply BitVec.eq_of_toNat_eq
  have h := pc.isLt
  simp only [frameWord, frameOf, toNat_append_eq, BitVec.toNat_ofNat]
  cases cf <;> cases zf <;> simp <;> omega

/-- PC in a frame made of its four words. -/
theorem framePc_append (w0 w1 w2 w3 : Nibble) :
    framePc (w3 ++ w2 ++ w1 ++ w0 : BitVec 16) =
      BitVec.ofNat 13 (4096 * w3.toNat + 256 * w2.toNat + 16 * w1.toNat + w0.toNat) := by
  apply BitVec.eq_of_toNat_eq
  simp only [framePc, BitVec.extractLsb'_toNat, toNat_append_eq, BitVec.toNat_ofNat, Nat.shiftRight_zero]
  omega

theorem frameCf_append (w0 w1 w2 w3 : Nibble) : frameCf (w3 ++ w2 ++ w1 ++ w0 : BitVec 16) = w3.getLsbD 3 := by
  simp only [frameCf, BitVec.getLsbD_append]
  rfl

theorem frameZf_append (w0 w1 w2 w3 : Nibble) : frameZf (w3 ++ w2 ++ w1 ++ w0 : BitVec 16) = w3.getLsbD 2 := by
  simp only [frameZf, BitVec.getLsbD_append]
  rfl

/-! ### Where an instruction ends -/

theorem toNat_npc (s : State) (len : Nat) : (s.npc len).toNat = (s.pc.toNat + len) % 8192 := by
  rw [State.npc, BitVec.toNat_add, BitVec.toNat_ofNat]
  omega

theorem romSize_le (p : Part) : p.romSize ≤ 8192 := by
  cases p <;> decide

theorem npcUsable_iff {len : Nat} (hl : len < 4096) : s.npcUsable len = true ↔ s.RoomForNpc len := by
  have h := s.pc.isLt
  have hr := romSize_le s.conf.part
  simp only [State.RoomForNpc, State.npcUsable, Bool.and_eq_true, beq_iff_eq, BitVec.getLsbD,
    Nat.testBit_eq_decide_div_mod_eq, decide_eq_decide, decide_eq_true_eq, toNat_npc]
  omega

theorem npcInPage_iff {len : Nat} (hl : len < 256) : s.npcInPage len = true ↔ s.RoomInPage len := by
  have h := s.pc.isLt
  simp only [State.RoomInPage, State.npcInPage, beq_iff_eq]
  constructor
  · intro he
    have h2 := congrArg BitVec.toNat he
    simp [Nat.shiftRight_eq_div_pow, toNat_npc] at h2
    omega
  · intro he
    apply BitVec.eq_of_toNat_eq
    simp [Nat.shiftRight_eq_div_pow, toNat_npc]
    omega

theorem inPage_eq_pageAddr {len : Nat} (hl : len < 256) (low : Byte) (h : s.RoomInPage len) :
    s.inPage len low = s.pageAddr low := by
  have he := (npcInPage_iff hl).2 h
  simp only [State.npcInPage, beq_iff_eq] at he
  simp only [State.inPage, State.pageAddr, he]

/-- An instruction that writes no PC ends at NPC. -/
theorem advance_of_room {len : Nat} (h : s.RoomForNpc len) (hl : len < 4096 := by decide) :
    advance len s = .next (.ended len s) := by
  rw [advance_of_usable len ((npcUsable_iff hl).2 h)]
  rfl

/-- An instruction whose NPC lies in the other bank or past ROM is Undefined (R27, R354). -/
theorem advance_of_no_room {len : Nat} (h : ¬ s.RoomForNpc len) (hl : len < 4096 := by decide) :
    advance len s = .fault .pcOutOfBankOrRom := by
  have h2 : s.npcUsable len = false := by
    rw [← Bool.not_eq_true, npcUsable_iff hl]
    exact h
  simp [advance, advanceWith, h2]

/-! ### Cells of memory -/

theorem onlyStored_one (m : Memory) (a : RamAddr) (v : Nibble) : OnlyStored m (ramWrite m a v) [(a, v)] := by
  refine ⟨by simp, fun b hb => ?_⟩
  simp only [List.map_cons, List.map_nil, List.mem_singleton] at hb
  exact ramRead_ramWrite_other _ _ _ _ hb

theorem onlyStored_two (m : Memory) (a b : RamAddr) (v w : Nibble) (h : a ≠ b) :
    OnlyStored m (ramWrite (ramWrite m a v) b w) [(a, v), (b, w)] := by
  refine ⟨?_, fun c hc => ?_⟩
  · simp [ramRead_ramWrite_other _ _ _ _ h]
  · simp at hc
    rw [ramRead_ramWrite_other _ _ _ _ hc.2, ramRead_ramWrite_other _ _ _ _ hc.1]

theorem onlyStored_four (m : Memory) (a b c d : RamAddr) (v w x y : Nibble) (hab : a ≠ b) (hac : a ≠ c) (had : a ≠ d)
    (hbc : b ≠ c) (hbd : b ≠ d) (hcd : c ≠ d) :
    OnlyStored m (ramWrite (ramWrite (ramWrite (ramWrite m a v) b w) c x) d y) [(a, v), (b, w), (c, x), (d, y)] := by
  refine ⟨?_, fun e he => ?_⟩
  · simp [ramRead_ramWrite_other, *]
  · simp at he
    simp [ramRead_ramWrite_other, *]

/-- Eight consecutive cells of the stack are eight addresses. -/
theorem stackAddr_ne (s : State) {i j : Nat} (hi : i < 8) (hj : j < 8) (h : i ≠ j) : s.stackAddr i ≠ s.stackAddr j := by
  intro he
  have h2 := congrArg BitVec.toNat he
  have h3 := s.sp.isLt
  simp only [State.stackAddr, toNat_append_eq, BitVec.toNat_add, BitVec.toNat_ofNat] at h2
  omega

/-- Raising SP first moves the numbering of the cells. -/
theorem stackAddr_raiseSp (s : State) {d : Byte} {k n : Nat} (h : d + BitVec.ofNat 8 k = BitVec.ofNat 8 n) :
    (s.raiseSp d).stackAddr k = s.stackAddr n := by
  simp only [State.stackAddr, State.raiseSp, BitVec.add_assoc, h]

/-- Pushing a frame stores its four cells and no other. -/
theorem pushFrame_onlyStored (s : State) (w : BitVec 16) : OnlyStored s.ram (s.pushFrame w).ram (s.frameCells w) := by
  refine onlyStored_four _ _ _ _ _ _ _ _ _ ?_ ?_ ?_ ?_ ?_ ?_ <;>
    exact stackAddr_ne _ (by decide) (by decide) (by decide)

end Sys2Proof.Machine
end

