-- ==== Sys2Proof/Tests/Slice0.lean ====
section
/-! SUPPORT. Small tests on fixed values. Expected results are those of spec/95_test_vectors.md (its vector numbers
stand in the comments) and of the spec's encoding tables, never the model's own answers; and for each statement with
hypotheses, states and operands that meet them (`test_hypotheses_…`). -/

namespace Sys2Proof.Tests

open Sys2Proof Sys2Proof.Machine

/-! ### Helpers -/

/-- A chip with the spec's defaults and a value for each parameter that has none. -/
def cfg : Conf :=
  { chip with
    stackBank := false
    vec := #v[0x008, 0x010, 0x018, 0x020, 0x028, 0x030, 0x038, 0x1F0]
    irqRank := #v[0, 1, 2, 3, 4, 5, 6, 7]
    irqEnableMap := #v[0, 1, 2, 3, 4, 5, 6, 7]
    options := { p0ResetHigh := true, p1ResetHigh := false, ceramicOsc := true, watchdog := true,
                 pullUp := Vector.replicate 8 0xF } }

/-- The pin levels of the tests, those of the V48 vectors; P33/HOLD (bit 3 of port 3) is low. -/
def pins : Vector Nibble 16 := #v[0xA, 1, 0, 7, 3, 0xC, 0xF, 7, 8, 9, 10, 11, 0xC, 13, 14, 15]

/-- A state at 0100H with the given words in data memory. -/
def st (ram : Memory) : State :=
  { State.resetOf cfg with pc := 0x0100, ram := ram, env := { Env.quiet with pins := some pins } }

/-- One field or a few of the next state. -/
def after {α : Type} (o : Outcome) (f : State → α) : Option α :=
  match o with
  | .next t => some (f t)
  | _ => none

/-- Decoding under the default `ENC2`, the codes of spec/opcode_table.json. -/
def dec : List Byte → Except DecodeError (Instr × List Byte) := decode defaultEnc2

/-- The reason an instruction or a step stops. -/
def stop (o : Outcome) : Option Fault :=
  match o with
  | .fault f => some f
  | _ => none

/-- AC, CF and ZF. -/
def acz (t : State) : Nibble × Bool × Bool := (t.ac, t.cf, t.zf)

/-! ### Well-formedness: the ill-formed spelling of each of the five shared encodings is refused (R107, R356). -/

theorem test_wellFormed_lai_0 : (Instr.lai 0).wellFormed = false ∧ (Instr.lai 1).wellFormed = true := by decide
theorem test_wellFormed_adi_6 : (Instr.adi 6).wellFormed = false ∧ (Instr.adi 7).wellFormed = true := by decide
theorem test_wellFormed_adi_10 : (Instr.adi 10).wellFormed = false ∧ (Instr.adi 9).wellFormed = true := by decide
theorem test_wellFormed_eih_0 : (Instr.eih 0).wellFormed = false ∧ (Instr.eih 1).wellFormed = true := by decide
theorem test_wellFormed_dih_0 : (Instr.dih 0).wellFormed = false ∧ (Instr.dih 1).wellFormed = true := by decide

/-! ### Decoding: a word of every instruction, written out from the encodings of spec/opcode_table.json. -/

/-- Accumulator manipulation. -/
theorem test_decode_accumulator_manipulation :
    dec [0x80] = .ok (.cla, []) ∧ dec [0xCF, 0x26] = .ok (.daa, []) ∧ dec [0xCF, 0x2A] = .ok (.das, []) ∧
    dec [0x1E] = .ok (.clc, []) ∧ dec [0x1F] = .ok (.stc, []) ∧ dec [0x18] = .ok (.cma, []) ∧
    dec [0x14] = .ok (.ia, []) ∧ dec [0x24] = .ok (.da, []) ∧ dec [0x10] = .ok (.rar, []) ∧
    dec [0x01] = .ok (.ral, []) ∧ dec [0x45] = .ok (.tae, []) ∧ dec [0x46] = .ok (.tea, []) ∧
    dec [0x44] = .ok (.xae, []) :=
  ⟨rfl, rfl, rfl, rfl, rfl, rfl, rfl, rfl, rfl, rfl, rfl, rfl, rfl⟩

/-- Memory manipulation. -/
theorem test_decode_memory_manipulation :
    dec [0x12] = .ok (.im, []) ∧ dec [0x22] = .ok (.dm, []) ∧ dec [0xC7, 0xA7] = .ok (.imdr 0xA7, []) ∧
    dec [0xC3, 0xA7] = .ok (.dmdr 0xA7, []) ∧ dec [0x0E] = .ok (.smb 2, []) ∧
    dec [0x2E] = .ok (.rmb 2, []) :=
  ⟨rfl, rfl, rfl, rfl, rfl, rfl⟩

/-- Arithmetic, logic and comparison. -/
theorem test_decode_arithmetic_logic_and_comparison :
    dec [0x06] = .ok (.ad, []) ∧ dec [0xC9, 0xA7] = .ok (.addr 0xA7, []) ∧ dec [0x02] = .ok (.adc, []) ∧
    dec [0xCF, 0x2B] = .ok (.adi 0xB, []) ∧ dec [0x17] = .ok (.subc, []) ∧ dec [0x07] = .ok (.anda, []) ∧
    dec [0x05] = .ok (.ora, []) ∧ dec [0x15] = .ok (.exl, []) ∧ dec [0x03] = .ok (.andm, []) ∧
    dec [0x04] = .ok (.orm, []) ∧ dec [0x16] = .ok (.cm, []) ∧ dec [0xCF, 0xAB] = .ok (.ci 0xB, []) ∧
    dec [0xCF, 0xBB] = .ok (.cli 0xB, []) ∧ dec [0xCF, 0xD2] = .ok (.cmb 2, []) :=
  ⟨rfl, rfl, rfl, rfl, rfl, rfl, rfl, rfl, rfl, rfl, rfl, rfl, rfl, rfl⟩

/-- Load and store. -/
theorem test_decode_load_and_store :
    dec [0x8B] = .ok (.lai 0xB, []) ∧ dec [0x5C] = .ok (.lae, []) ∧ dec [0xC1, 0xA7] = .ok (.ladr 0xA7, []) ∧
    dec [0x47] = .ok (.s, []) ∧ dec [0x5E] = .ok (.sae, []) ∧ dec [0x48] = .ok (.la .hl, []) ∧
    dec [0x4A] = .ok (.la .xy, []) ∧ dec [0x49] = .ok (.laI .hl, []) ∧ dec [0x4B] = .ok (.laI .xy, []) ∧
    dec [0x59] = .ok (.laD .hl, []) ∧ dec [0x5B] = .ok (.laD .xy, []) ∧ dec [0x4C] = .ok (.xa .hl, []) ∧
    dec [0x4E] = .ok (.xa .xy, []) ∧ dec [0x4D] = .ok (.xaI .hl, []) ∧ dec [0x4F] = .ok (.xaI .xy, []) ∧
    dec [0x5D] = .ok (.xaD .hl, []) ∧ dec [0x5F] = .ok (.xaD .xy, []) ∧
    dec [0xC8, 0xA7] = .ok (.xadr 0xA7, []) ∧ dec [0xC6, 0xA7] = .ok (.leai 0xA7, []) ∧
    dec [0x5A] = .ok (.rtbl, []) ∧ dec [0x58] = .ok (.rtblp, []) :=
  ⟨rfl, rfl, rfl, rfl, rfl, rfl, rfl, rfl, rfl, rfl, rfl, rfl, rfl, rfl, rfl, rfl, rfl, rfl, rfl, rfl, rfl⟩

/-- Data pointer manipulation. -/
theorem test_decode_data_pointer_manipulation :
    dec [0x6B] = .ok (.ldz 0xB, []) ∧ dec [0xCF, 0x0B] = .ok (.lhi 0xB, []) ∧
    dec [0xCF, 0x1B] = .ok (.lli 0xB, []) ∧ dec [0xC0, 0xA7] = .ok (.lhli 0xA7, []) ∧
    dec [0xC2, 0xA7] = .ok (.lxyi 0xA7, []) ∧ dec [0x11] = .ok (.il, []) ∧ dec [0x21] = .ok (.dl, []) ∧
    dec [0x13] = .ok (.iy, []) ∧ dec [0x23] = .ok (.dy, []) ∧ dec [0xCF, 0xF0] = .ok (.tah, []) ∧
    dec [0xCF, 0xE0] = .ok (.tha, []) ∧ dec [0x40] = .ok (.xah, []) ∧ dec [0xCF, 0xF1] = .ok (.tal, []) ∧
    dec [0xCF, 0xE1] = .ok (.tla, []) ∧ dec [0x41] = .ok (.xal, []) ∧ dec [0xCF, 0xF2] = .ok (.tax, []) ∧
    dec [0xCF, 0xE2] = .ok (.txa, []) ∧ dec [0x42] = .ok (.xax, []) ∧ dec [0xCF, 0xF3] = .ok (.tay, []) ∧
    dec [0xCF, 0xE3] = .ok (.tya, []) ∧ dec [0x43] = .ok (.xay, []) :=
  ⟨rfl, rfl, rfl, rfl, rfl, rfl, rfl, rfl, rfl, rfl, rfl, rfl, rfl, rfl, rfl, rfl, rfl, rfl, rfl, rfl, rfl⟩

/-- Flag manipulation. -/
theorem test_decode_flag_manipulation :
    dec [0x7B] = .ok (.sfb 0xB, []) ∧ dec [0x3B] = .ok (.rfb 0xB, []) :=
  ⟨rfl, rfl⟩

/-- Jump and subroutine. -/
theorem test_decode_jump_and_subroutine :
    dec [0xE9, 0xE3] = .ok (.jmp 0x9E3, []) ∧ dec [0x27] = .ok (.jpea, []) ∧
    dec [0x55, 0xC6] = .ok (.cal 0x5C6, []) ∧ dec [0xAB] = .ok (.czp 0xB, []) ∧
    dec [0x1B] = .ok (.bank, []) ∧ dec [0xCF, 0xF8] = .ok (.push .hl, []) ∧
    dec [0xCF, 0xFA] = .ok (.push .xy, []) ∧ dec [0xCF, 0xFC] = .ok (.push .ae, []) ∧
    dec [0xCF, 0xE8] = .ok (.pop .hl, []) ∧ dec [0xCF, 0xEA] = .ok (.pop .xy, []) ∧
    dec [0xCF, 0xEC] = .ok (.pop .ae, []) ∧ dec [0x1C] = .ok (.rt, []) ∧ dec [0x1D] = .ok (.rti, []) :=
  ⟨rfl, rfl, rfl, rfl, rfl, rfl, rfl, rfl, rfl, rfl, rfl, rfl, rfl⟩

/-- Branch. -/
theorem test_decode_branch :
    dec [0xD2, 0xA7] = .ok (.ba 2 0xA7, []) ∧ dec [0x92, 0xA7] = .ok (.bna 2 0xA7, []) ∧
    dec [0xD6, 0xA7] = .ok (.bm 2 0xA7, []) ∧ dec [0x96, 0xA7] = .ok (.bnm 2 0xA7, []) ∧
    dec [0xDA, 0xA7] = .ok (.bp 2 0xA7, []) ∧ dec [0x9A, 0xA7] = .ok (.bnp 2 0xA7, []) ∧
    dec [0xDC, 0xA7] = .ok (.bc 0xA7, []) ∧ dec [0x9C, 0xA7] = .ok (.bnc 0xA7, []) ∧
    dec [0xDD, 0xA7] = .ok (.bz 0xA7, []) ∧ dec [0x9D, 0xA7] = .ok (.bnz 0xA7, []) ∧
    dec [0xFB, 0xA7] = .ok (.bf 0xB 0xA7, []) ∧ dec [0xBB, 0xA7] = .ok (.bnf 0xB 0xA7, []) :=
  ⟨rfl, rfl, rfl, rfl, rfl, rfl, rfl, rfl, rfl, rfl, rfl, rfl⟩

/-- I/O. -/
theorem test_decode_i_o :
    dec [0x20] = .ok (.ip0, []) ∧ dec [0x26] = .ok (.ip, []) ∧ dec [0x19] = .ok (.ipm, []) ∧
    dec [0xCF, 0x6B] = .ok (.ipdr 0xB, []) ∧ dec [0xCF, 0xD4] = .ok (.ip45, []) ∧
    dec [0x25] = .ok (.op, []) ∧ dec [0x1A] = .ok (.opm, []) ∧ dec [0xCF, 0x7B] = .ok (.opdr 0xB, []) ∧
    dec [0xCF, 0xD5] = .ok (.op45, []) ∧ dec [0x0A] = .ok (.spb 2, []) ∧ dec [0x2A] = .ok (.rpb 2, []) ∧
    dec [0xC5, 0xB6] = .ok (.andpdr 0xB 0x6, []) ∧ dec [0xC4, 0xB6] = .ok (.orpdr 0xB 0x6, []) :=
  ⟨rfl, rfl, rfl, rfl, rfl, rfl, rfl, rfl, rfl, rfl, rfl, rfl, rfl⟩

/-- Timer control. -/
theorem test_decode_timer_control :
    dec [0xCA] = .ok (.wttm0, []) ∧ dec [0xCF, 0xF4] = .ok (.wttm1, []) ∧ dec [0xCB] = .ok (.rtim0, []) ∧
    dec [0xCF, 0xF5] = .ok (.rtim1, []) ∧ dec [0xCF, 0xE6] = .ok (.start0, []) ∧
    dec [0xCF, 0xE7] = .ok (.start1, []) ∧ dec [0xCF, 0xF6] = .ok (.stop0, []) ∧
    dec [0xCF, 0xF7] = .ok (.stop1, []) :=
  ⟨rfl, rfl, rfl, rfl, rfl, rfl, rfl, rfl⟩

/-- Interrupt control. -/
theorem test_decode_interrupt_control :
    dec [0xCD, 0x50] = .ok (.mset, []) ∧ dec [0xCD, 0x90] = .ok (.mreset, []) ∧
    dec [0xCD, 0x5B] = .ok (.eih 0xB, []) ∧ dec [0xCD, 0x4B] = .ok (.eil 0xB, []) ∧
    dec [0xCD, 0x9B] = .ok (.dih 0xB, []) ∧ dec [0xCD, 0x8B] = .ok (.dil 0xB, []) ∧
    dec [0xCF, 0xDA] = .ok (.wtsp, []) ∧ dec [0xCF, 0xDB] = .ok (.rsp, []) :=
  ⟨rfl, rfl, rfl, rfl, rfl, rfl, rfl, rfl⟩

/-- Standby control. -/
theorem test_decode_standby_control :
    dec [0xCF, 0xDE] = .ok (.halt, []) ∧ dec [0xCF, 0xDF] = .ok (.hold, []) :=
  ⟨rfl, rfl⟩

/-- Serial I/O control. -/
theorem test_decode_serial_i_o_control :
    dec [0xCF, 0xEE] = .ok (.starts, []) ∧ dec [0xCF, 0xEF] = .ok (.wtsio, []) ∧
    dec [0xCF, 0xFF] = .ok (.rsio, []) :=
  ⟨rfl, rfl, rfl⟩

/-- Other. -/
theorem test_decode_other :
    dec [0x00] = .ok (.nop, []) ∧ dec [0xCF, 0xC2] = .ok (.sb 2, []) :=
  ⟨rfl, rfl⟩

/-- 95_test_vectors.md section 3. -/
theorem test_decode_vectors :
    dec [0x0B] = .ok (.spb 3, []) ∧ dec [0x2F] = .ok (.rmb 3, []) ∧ dec [0x53, 0xFF] = .ok (.cal 0x3FF, []) ∧
    dec [0x80] = .ok (.cla, []) ∧ dec [0x93, 0x20] = .ok (.bna 3 0x20, []) ∧ dec [0xAF] = .ok (.czp 15, []) ∧
    dec [0xCF, 0x26] = .ok (.daa, []) ∧ dec [0xCF, 0x2F] = .ok (.adi 15, []) ∧
    dec [0xCD, 0x50] = .ok (.mset, []) ∧ dec [0xCD, 0x51] = .ok (.eih 1, []) ∧
    dec [0xEF, 0xFF] = .ok (.jmp 0xFFF, []) ∧ dec [0xFF, 0x00] = .ok (.bf 15 0, []) :=
  ⟨rfl, rfl, rfl, rfl, rfl, rfl, rfl, rfl, rfl, rfl, rfl, rfl⟩

/-- 95_test_vectors.md section 3: the unassigned codes. -/
theorem test_decode_unassigned :
    dec [0x9E, 0] = .error (.unassignedFirstByte 0x9E) ∧ dec [0xCC, 0] = .error (.unassignedFirstByte 0xCC) ∧
    dec [0xDE, 0] = .error (.unassignedFirstByte 0xDE) ∧
    dec [0xCF, 0x30] = .error (.unassignedSecondByte 0xCF 0x30) ∧
    dec [0xCF, 0xE9] = .error (.unassignedSecondByte 0xCF 0xE9) ∧ dec [0xCF, 0xFE] = .error .illegalSetting ∧
    dec [0xCD, 0x60] = .error (.unassignedSecondByte 0xCD 0x60) ∧ dec [0xCF] = .error .endOfBytes :=
  ⟨rfl, rfl, rfl, rfl, rfl, rfl, rfl, rfl⟩

/-- The table numbers a two-byte row as one word, byte 1 in bits 15 to 8 (R93). -/
theorem test_decodeTableWord :
    decodeTableWord 8 0x80 = some .cla ∧ decodeTableWord 16 0xCF26 = some .daa ∧
    decodeTableWord 16 0xE123 = some (.jmp 0x123) ∧ decodeTableWord 16 0xCFFE = none := ⟨rfl, rfl, rfl, rfl⟩

/-- Another `ENC2` (R104): IP45 and OP45 the other way round, MSET on page CFH in place of START0 and that on page CDH, and
the port number of ANDPDR in the high nibble. -/
def otherEnc2 : Enc2 :=
  { defaultEnc2 with ip45 := ⟨.cf, 0xD5⟩, op45 := ⟨.cf, 0xD4⟩, mset := ⟨.cf, 0xE6⟩, start0 := ⟨.cd, 0x60⟩
                     andpdrImmediateHigh := false }

theorem test_decode_other_enc2 :
    decode otherEnc2 [0xCF, 0xD4] = .ok (.op45, []) ∧ decode otherEnc2 [0xCF, 0xE6] = .ok (.mset, []) ∧
    decode otherEnc2 [0xCD, 0x60] = .ok (.start0, []) ∧ decode otherEnc2 [0xCD, 0x50] = .ok (.eih 0, []) ∧
    decode otherEnc2 [0xC5, 0xC2] = .ok (.andpdr 2 0xC, []) ∧ encode otherEnc2 (.andpdr 2 0xC) = [0xC5, 0xC2] :=
  ⟨rfl, rfl, rfl, rfl, rfl, rfl⟩

/-- A table in which two rows share a code is not legal. -/
theorem test_enc2_legal :
    defaultEnc2.legal = true ∧ otherEnc2.legal = true ∧ Enc2.legal { defaultEnc2 with ip45 := ⟨.cf, 0xF0⟩ } = false ∧
    Enc2.legal { defaultEnc2 with sb := ⟨.cf, 0xD3⟩ } = false ∧ Enc2.legal { defaultEnc2 with rsio := ⟨.cf, 0xFE⟩ } = false :=
  ⟨by decide, by decide, by decide, by decide, by decide⟩

/-! ### Option images (S10, R9) -/

theorem test_options_all_set :
    optionsOfImage #v[0x17, 0xFF, 0x7F, 0xFF, 0x0F, 0x00, 0x00, 0x0C] =
      some { p0ResetHigh := true, p1ResetHigh := true, ceramicOsc := true, watchdog := true,
             pullUp := #v[0xF, 0xF, 0xF, 0x7, 0xF, 0xF, 0xF, 0xC] } := by decide

theorem test_options_all_clear :
    optionsOfImage (Vector.replicate 8 0) =
      some { p0ResetHigh := false, p1ResetHigh := false, ceramicOsc := false, watchdog := false,
             pullUp := Vector.replicate 8 0 } := by decide

theorem test_options_unused_bit_refused : optionsOfImage #v[0x1F, 0xFF, 0x7F, 0xFF, 0x0F, 0x00, 0x00, 0x0C] = none := by
  decide

/-! ### Accumulator (V40) -/

/-- V40.1. -/
theorem test_cla_loads :
    after (exec .cla { st [] with ac := 9 }) (fun t => (t.ac, t.zf, t.vsk)) = some (0, true, true) := by decide
/-- V40.2. -/
theorem test_cla_skipped_after_lai :
    after (exec .cla { st [] with ac := 5, vsk := true }) (fun t => (t.ac, t.zf, t.vsk)) = some (5, false, true) := by decide
/-- V40.3, V40.4. -/
theorem test_daa :
    after (exec .daa { st [] with ac := 0xC, cf := true }) acz = some (2, true, false) ∧
    after (exec .daa { st [] with ac := 0xA }) acz = some (0, false, true) := by decide
/-- V40.5, V40.6. -/
theorem test_das :
    after (exec .das { st [] with ac := 0xF }) acz = some (9, false, false) ∧
    after (exec .das { st [] with ac := 6 }) acz = some (0, false, true) := by decide
/-- V40.7. -/
theorem test_clc : after (exec .clc { st [] with cf := true }) (·.cf) = some false := by decide
/-- V40.7. -/
theorem test_stc : after (exec .stc (st [])) (·.cf) = some true := by decide
/-- V40.8, V40.9. -/
theorem test_cma :
    after (exec .cma { st [] with ac := 5 }) acz = some (0xA, false, false) ∧
    after (exec .cma { st [] with ac := 0xF }) acz = some (0, false, true) := by decide
/-- V40.10, V40.11. -/
theorem test_ia :
    after (exec .ia { st [] with ac := 7 }) acz = some (8, false, false) ∧
    after (exec .ia { st [] with ac := 0xF }) acz = some (0, true, true) := by decide
/-- V40.12, V40.14. -/
theorem test_da :
    after (exec .da { st [] with ac := 8 }) acz = some (7, true, false) ∧
    after (exec .da { st [] with ac := 1 }) acz = some (0, true, true) := by decide
/-- V40.13. -/
theorem test_da_borrow : after (exec .da (st [])) acz = some (0xF, false, false) := by decide
/-- V40.15, V40.16. -/
theorem test_rar :
    after (exec .rar { st [] with ac := 5, cf := true }) acz = some (0xA, true, false) ∧
    after (exec .rar { st [] with ac := 1 }) acz = some (0, true, false) := by decide
/-- V40.17, V40.18. -/
theorem test_ral :
    after (exec .ral { st [] with ac := 5, cf := true }) acz = some (0xB, false, false) ∧
    after (exec .ral { st [] with ac := 8 }) acz = some (0, true, true) := by decide
/-- V40.19. -/
theorem test_tae : after (exec .tae { st [] with ac := 0xB, e := 2 }) (fun t => (t.e, t.ac)) = some (0xB, 0xB) := by decide
/-- V40.20. -/
theorem test_tea : after (exec .tea { st [] with ac := 9 }) acz = some (0, false, true) := by decide
/-- V40.21. -/
theorem test_xae :
    after (exec .xae { st [] with ac := 1, e := 0xE }) (fun t => (t.ac, t.e, t.zf)) = some (0xE, 1, false) := by decide

/-! ### Memory manipulation (V41) -/

/-- V41.1, V41.2. -/
theorem test_im :
    after (exec .im { st [(0x25, 9)] with dph := 2, dpl := 5 }) (fun t => (t.ram, t.cf, t.zf)) =
      some ([(0x25, 0xA)], false, false) ∧
    after (exec .im (st [(0, 0xF)])) (fun t => (t.ram, t.cf, t.zf)) = some ([(0, 0)], true, true) := by decide
/-- V41.10, V41.11: after BANK the operand is in the other RAM bank; a word never written. -/
theorem test_im_after_bank :
    after (exec .im { st [(0x025, 9), (0x125, 4)] with dph := 2, dpl := 5, bnk := true }) (fun t => (t.ram, t.bnk)) =
      some ([(0x025, 9), (0x125, 5)], false) ∧
    stop (exec .im (st [])) = some .readOfUnwrittenState := by decide
/-- V41.3, V41.4. -/
theorem test_dm :
    after (exec .dm (st [(0, 3)])) (fun t => (t.ram, t.cf, t.zf)) = some ([(0, 2)], true, false) ∧
    after (exec .dm (st [(0, 0)])) (fun t => (t.ram, t.cf, t.zf)) = some ([(0, 0xF)], false, false) := by decide
/-- V41.5. -/
theorem test_imdr :
    after (exec (.imdr 0xF0) (st [(0xF0, 0xF)])) (fun t => (t.ram, t.cf, t.zf)) = some ([(0xF0, 0)], true, true) := by decide
/-- V41.6. -/
theorem test_dmdr :
    after (exec (.dmdr 0x10) (st [(0x10, 1)])) (fun t => (t.ram, t.cf, t.zf)) = some ([(0x10, 0)], true, true) := by decide
/-- V41.7. -/
theorem test_smb : after (exec (.smb 2) (st [(0, 1)])) (fun t => (t.ram, t.zf)) = some ([(0, 5)], false) := by decide
/-- V41.8, V41.9. -/
theorem test_rmb :
    after (exec (.rmb 0) (st [(0, 1)])) (fun t => (t.ram, t.zf)) = some ([(0, 0)], true) ∧
    after (exec (.rmb 3) (st [(0, 6)])) (fun t => (t.ram, t.zf)) = some ([(0, 6)], false) := by decide

/-! ### Arithmetic, logic and comparison (V42) -/

/-- V42.1, V42.3. -/
theorem test_ad :
    after (exec .ad { st [(0, 8)] with ac := 9 }) acz = some (1, true, false) ∧
    after (exec .ad { st [(0, 0)] with cf := true }) acz = some (0, false, true) := by decide
/-- V42.4, V42.5. -/
theorem test_adc :
    after (exec .adc { st [(0, 8)] with ac := 7, cf := true }) acz = some (0, true, true) ∧
    after (exec .adc { st [(0, 0xF)] with ac := 0xF, cf := true }) acz = some (0xF, true, false) := by decide
/-- V42.6, V42.7. -/
theorem test_subc :
    after (exec .subc { st [(0, 3)] with ac := 5, cf := true }) acz = some (0xE, false, false) ∧
    after (exec .subc { st [(0, 5)] with ac := 5, cf := true }) acz = some (0, true, true) := by decide
/-- V42.8, V42.9. -/
theorem test_subc_borrow :
    after (exec .subc (st [(0, 0)])) acz = some (0xF, false, false) ∧
    after (exec .subc { st [(0, 3)] with ac := 5, cf := true, conf := { cfg with subcCin := .literal } }) acz =
      some (0xD, false, false) := by decide
/-- V42.10 to V42.12. -/
theorem test_cm :
    after (exec .cm { st [(0, 7)] with ac := 9 }) acz = some (9, true, false) ∧
    after (exec .cm { st [(0, 9)] with ac := 7 }) acz = some (7, false, false) ∧
    after (exec .cm { st [(0, 5)] with ac := 5 }) acz = some (5, true, true) := by decide
/-- V42.13, V42.14. -/
theorem test_cm_ends :
    after (exec .cm (st [(0, 0)])) acz = some (0, true, true) ∧
    after (exec .cm (st [(0, 0xF)])) acz = some (0, false, false) := by decide
/-- V42.15, V42.16. -/
theorem test_ci :
    after (exec (.ci 9) { st [] with ac := 3 }) acz = some (3, false, false) ∧
    after (exec (.ci 0) (st [])) acz = some (0, true, true) := by decide
/-- V42.17. -/
theorem test_adi : after (exec (.adi 3) { st [] with ac := 0xD }) acz = some (0, false, true) := by decide
/-- V42.18. -/
theorem test_addr : after (exec (.addr 0x42) { st [(0x42, 0xA)] with ac := 5 }) acz = some (0xF, false, false) := by decide
/-- V42.19. -/
theorem test_anda : after (exec .anda { st [(0, 0xA)] with ac := 0xC }) acz = some (8, false, false) := by decide
/-- V42.19. -/
theorem test_ora : after (exec .ora { st [(0, 0xA)] with ac := 0xC }) acz = some (0xE, false, false) := by decide
/-- V42.19, V42.20. -/
theorem test_exl :
    after (exec .exl { st [(0, 0xA)] with ac := 0xC }) acz = some (6, false, false) ∧
    after (exec .exl { st [(0, 6)] with ac := 6 }) acz = some (0, false, true) := by decide
/-- V42.21. -/
theorem test_andm :
    after (exec .andm { st [(0, 6)] with ac := 3 }) (fun t => (t.ram, acz t)) = some ([(0, 2)], 3, false, false) := by decide
/-- V42.22. -/
theorem test_orm :
    after (exec .orm { st [(0, 4)] with ac := 3 }) (fun t => (t.ram, acz t)) = some ([(0, 7)], 3, false, false) := by decide
/-- V42.23. -/
theorem test_cli :
    after (exec (.cli 0xA) { st [] with dpl := 0xA }) (·.zf) = some true ∧
    after (exec (.cli 0xA) { st [] with dpl := 0xB }) (·.zf) = some false := by decide
/-- V42.24, V42.25. -/
theorem test_cmb :
    after (exec (.cmb 3) { st [(0, 0xF)] with ac := 8 }) (·.zf) = some true ∧
    after (exec (.cmb 0) { st [(0, 0xF)] with ac := 8 }) (·.zf) = some false := by decide

/-! ### Load and store (V43) -/

/-- V43.4, V43.3: a `LAI` after another instruction, and one after a `LAI` where VSKIP is off. -/
theorem test_lai_loads :
    after (exec (.lai 5) { st [] with ac := 3 }) (fun t => (t.ac, t.vsk)) = some (5, true) ∧
    after (exec (.lai 0xF) { st [] with ac := 5, vsk := true, conf := { cfg with vskip := false } }) (·.ac) =
      some 0xF := by decide
/-- V43.1: the second of two. -/
theorem test_lai_skipped : after (exec (.lai 5) { st [] with ac := 3, vsk := true }) acz = some (3, false, false) := by decide
/-- V43.5. -/
theorem test_lae :
    after (exec .lae { st [(0x20, 4), (0x21, 0xC)] with dph := 2 }) (fun t => (t.ac, t.e)) = some (4, 0xC) := by decide
/-- V43.6. -/
theorem test_lae_odd : stop (exec .lae { st [(0x20, 4), (0x21, 0xC)] with dph := 2, dpl := 1 }) = some .m2OddAddress := by
  decide
/-- V43.7. -/
theorem test_sae :
    after (exec .sae { st [] with e := 0xA, ac := 5, dph := 4 }) (·.ram) = some [(0x40, 5), (0x41, 0xA)] := by decide
/-- V43.8. -/
theorem test_ladr : after (exec (.ladr 0x7F) { st [(0x7F, 0)] with ac := 3 }) acz = some (0, false, true) := by decide
/-- V43.9. -/
theorem test_s : after (exec .s { st [] with ac := 6, dph := 3, dpl := 1 }) (·.ram) = some [(0x31, 6)] := by decide
/-- V43.10. -/
theorem test_la : after (exec (.la .xy) { st [(0x12, 0xD)] with dpx := 1, dpy := 2 }) acz = some (0xD, false, false) := by
  decide
/-- V43.11, V43.12. -/
theorem test_laI :
    after (exec (.laI .hl) { st [(0x2F, 7)] with dph := 2, dpl := 0xF }) (fun t => (t.ac, t.hl, t.zf)) =
      some (7, 0x20, true) ∧
    after (exec (.laI .hl) { st [(0x20, 0)] with dph := 2 }) (fun t => (t.ac, t.hl, t.zf)) =
      some (0, 0x21, false) := by decide
/-- V43.13, V43.14. -/
theorem test_laD :
    after (exec (.laD .xy) { st [(0x31, 2)] with dpx := 3, dpy := 1 }) (fun t => (t.ac, t.xy, t.zf)) =
      some (2, 0x30, true) ∧
    after (exec (.laD .hl) { st [(0x50, 1)] with dph := 5 }) (fun t => (t.ac, t.hl, t.zf)) =
      some (1, 0x5F, false) := by decide
/-- V43.15. -/
theorem test_xa :
    after (exec (.xa .hl) { st [(0, 8)] with ac := 1, zf := true }) (fun t => (t.ram, t.ac, t.zf)) =
      some ([(0, 1)], 8, true) := by decide
/-- V43.16. -/
theorem test_xaI :
    after (exec (.xaI .hl) { st [(0x10, 9)] with dph := 1, ac := 5 }) (fun t => (t.ram, t.ac, t.hl, t.zf)) =
      some ([(0x10, 5)], 9, 0x11, false) := by decide
/-- V43.17. -/
theorem test_xaD :
    after (exec (.xaD .xy) { st [(0x21, 0xF)] with dpx := 2, dpy := 1 }) (fun t => (t.ram, t.ac, t.xy, t.zf)) =
      some ([(0x21, 0)], 0xF, 0x20, true) := by decide
/-- V43.18. -/
theorem test_xadr :
    after (exec (.xadr 0x05) { st [(0x05, 0xC)] with ac := 3 }) (fun t => (t.ram, t.ac)) = some ([(0x05, 3)], 0xC) := by
  decide
/-- V43.19. -/
theorem test_leai :
    after (exec (.leai 0xA5) { st [] with zf := true }) (fun t => (t.e, t.ac, t.zf)) = some (0xA, 5, true) := by decide
/-- V43.20. -/
theorem test_rtbl :
    after (exec .rtbl { st [] with pc := 0x0312, e := 0xF, rom := [(0x3F0, 0x5A)] }) (fun t => (t.e, t.ac, t.pc)) =
      some (5, 0xA, 0x0313) := by decide
/-- V43.21. -/
theorem test_rtbl_page_end : stop (exec .rtbl { st [] with pc := 0x03FF }) = some .pageBoundaryTransfer := by decide
/-- V43.22. -/
theorem test_rtblp :
    after (exec .rtblp { st [] with e := 2, rom := [(0x120, 0x3C)] }) (fun t => (t.pl[4], t.pl[5], t.e, t.ac)) =
      some (3, 0xC, 2, 0) := by decide

/-! ### Data pointers and user flags (V44, V45) -/

/-- V44.1. -/
theorem test_ldz : after (exec (.ldz 5) { st [] with dph := 9 }) (·.hl) = some 0x05 := by decide
/-- V44.2. -/
theorem test_lhi : after (exec (.lhi 0xC) (st [])) (·.hl) = some 0xC0 := by decide
/-- V44.3. -/
theorem test_lli : after (exec (.lli 3) (st [])) (·.hl) = some 0x03 := by decide
/-- V44.4. -/
theorem test_lhli : after (exec (.lhli 0x3A) (st [])) (fun t => (t.dph, t.dpl)) = some (3, 0xA) := by decide
/-- V44.5. -/
theorem test_lxyi : after (exec (.lxyi 0xF1) (st [])) (fun t => (t.dpx, t.dpy)) = some (0xF, 1) := by decide
/-- V44.6. -/
theorem test_il :
    after (exec .il { st [] with dph := 2, dpl := 0xF }) (fun t => (t.hl, t.zf, t.cf)) = some (0x20, true, false) := by decide
/-- V44.7. -/
theorem test_dl : after (exec .dl { st [] with dph := 2 }) (fun t => (t.hl, t.zf)) = some (0x2F, false) := by decide
/-- V44.8. -/
theorem test_iy : after (exec .iy (st [])) (fun t => (t.xy, t.zf)) = some (0x01, false) := by decide
/-- V44.8. -/
theorem test_dy : after (exec .dy { st [] with dpy := 1 }) (fun t => (t.xy, t.zf)) = some (0x00, true) := by decide
/-- V44.9. -/
theorem test_tah : after (exec .tah { st [] with ac := 7 }) (·.dph) = some 7 := by decide
/-- V44.9. -/
theorem test_tal : after (exec .tal { st [] with ac := 7 }) (·.dpl) = some 7 := by decide
/-- V44.9. -/
theorem test_tax : after (exec .tax { st [] with ac := 7 }) (·.dpx) = some 7 := by decide
/-- V44.9. -/
theorem test_tay : after (exec .tay { st [] with ac := 7 }) (·.dpy) = some 7 := by decide
/-- V44.10. -/
theorem test_tha : after (exec .tha { st [] with ac := 3 }) acz = some (0, false, true) := by decide
/-- V44.11. -/
theorem test_tla : after (exec .tla { st [] with dpl := 0xB }) acz = some (0xB, false, false) := by decide
/-- V44.11. -/
theorem test_txa : after (exec .txa { st [] with dpx := 6 }) acz = some (6, false, false) := by decide
/-- V44.11. -/
theorem test_tya : after (exec .tya { st [] with ac := 3 }) acz = some (0, false, true) := by decide
/-- V44.12. -/
theorem test_xah : after (exec .xah { st [] with ac := 2, dph := 9 }) (fun t => (t.ac, t.dph)) = some (9, 2) := by decide
/-- V44.12. -/
theorem test_xal : after (exec .xal { st [] with ac := 2, dpl := 9 }) (fun t => (t.ac, t.dpl)) = some (9, 2) := by decide
/-- V44.12. -/
theorem test_xax : after (exec .xax { st [] with ac := 2, dpx := 9 }) (fun t => (t.ac, t.dpx)) = some (9, 2) := by decide
/-- V44.12. -/
theorem test_xay : after (exec .xay { st [] with ac := 2, dpy := 9 }) (fun t => (t.ac, t.dpy)) = some (9, 2) := by decide
/-- V45.1. -/
theorem test_sfb : after (exec (.sfb 9) (st [])) (fun t => (t.uf[9], t.uf[8])) = some (true, false) := by decide
/-- V45.2: ZF is free. -/
theorem test_rfb :
    after (exec (.rfb 0) { st [] with uf := Vector.replicate 16 true }) (fun t => (t.uf[0], t.uf[1])) =
      some (false, true) := by decide

/-! ### Jump and subroutine (V46) -/

/-- V46.1, V46.4. -/
theorem test_jmp :
    after (exec (.jmp 0x123) { st [] with pc := 0x0040 }) (·.pc) = some 0x0123 ∧
    after (exec (.jmp 0x123) { st [] with pc := 0x1040 }) (·.pc) = some 0x1123 := by decide
/-- V46.2. -/
theorem test_jmp_after_bank :
    after (exec (.jmp 0x123) { st [] with pc := 0x0041, bnk := true }) (fun t => (t.pc, t.bnk)) = some (0x1123, false) := by
  decide
/-- R221, R27: a JMP that ends a bank is Undefined; an RT there uses no NPC. -/
theorem test_jmp_at_bank_end :
    stop (exec (.jmp 0x123) { st [] with pc := 0x0FFE }) = some .pcOutOfBankOrRom ∧
    after (exec .rt { st [(4, 1), (5, 0), (6, 0), (7, 0)] with pc := 0x0FFF }) (·.pc) = some 0x0001 := by decide
/-- R354, D3: the last byte of ROM of the LC66356B is 17FFH. -/
theorem test_rom_end :
    stop (exec .nop { st [] with pc := 0x17FF, conf := { cfg with part := .lc66356b } }) = some .pcOutOfBankOrRom ∧
    after (exec .nop { st [] with pc := 0x17FE, conf := { cfg with part := .lc66356b } }) (·.pc) = some 0x17FF ∧
    after (exec .nop { st [] with pc := 0x17FF }) (·.pc) = some 0x1800 := by decide
/-- V46.5, V46.6. -/
theorem test_jpea :
    after (exec .jpea { st [] with pc := 0x0210, e := 8, ac := 4 }) (·.pc) = some 0x0284 ∧
    stop (exec .jpea { st [] with pc := 0x02FF }) = some .pageBoundaryTransfer := by decide
/-- V46.7. -/
theorem test_cal :
    after (exec (.cal 0x2AB) { st [] with pc := 0x1000, sp := 0xFC, cf := true }) (fun t => (t.ram, t.sp, t.pc)) =
      some ([(0xFC, 2), (0xFD, 0), (0xFE, 0), (0xFF, 9)], 0xF8, 0x02AB) := by decide
/-- V46.11. -/
theorem test_cal_wraps : after (exec (.cal 0) { st [] with sp := 0x01 }) (·.sp) = some 0xFD := by decide
/-- V46.8. -/
theorem test_rt :
    after (exec .rt { st [(0xFC, 2), (0xFD, 0), (0xFE, 0), (0xFF, 9)] with sp := 0xF8, zf := true })
      (fun t => (t.sp, t.pc, t.cf, t.zf)) = some (0xFC, 0x1002, false, true) := by decide
/-- V46.9. -/
theorem test_rti :
    after (exec .rti { st [(0xFC, 2), (0xFD, 0), (0xFE, 0), (0xFF, 9)] with sp := 0xF8, zf := true })
      (fun t => (t.sp, t.pc, t.cf, t.zf)) = some (0xFC, 0x1002, true, false) := by decide
/-- V46.16. -/
theorem test_rti_both_flags :
    after (exec .rti { st [(0x24, 6), (0x25, 4), (0x26, 3), (0x27, 0xC)] with sp := 0x20 })
      (fun t => (t.sp, t.pc, t.cf, t.zf)) = some (0x24, 0x0346, true, true) := by decide
/-- V46.10. -/
theorem test_czp :
    after (exec (.czp 5) { st [] with pc := 0x0345, sp := 0x40, zf := true }) (fun t => (t.ram, t.sp, t.pc)) =
      some ([(0x40, 6), (0x41, 4), (0x42, 3), (0x43, 4)], 0x3C, 0x0014) := by decide
/-- V46.2: the prefix alone. -/
theorem test_bank : after (exec .bank (st [])) (fun t => (t.pc, t.bnk, t.vsk)) = some (0x0101, true, false) := by decide
/-- V46.12. -/
theorem test_push :
    after (exec (.push .ae) { st [] with e := 3, ac := 0xC, sp := 0x80 }) (fun t => (t.ram, t.sp)) =
      some ([(0x80, 0xC), (0x81, 3)], 0x7E) := by decide
/-- V46.14. -/
theorem test_push_wraps :
    after (exec (.push .hl) { st [] with dph := 1, dpl := 2, sp := 0xFF }) (fun t => (t.ram, t.sp)) =
      some ([(0x00, 1), (0xFF, 2)], 0xFD) := by decide
/-- V46.13. -/
theorem test_pop :
    after (exec (.pop .ae) { st [(0x80, 0xC), (0x81, 3)] with sp := 0x7E }) (fun t => (t.sp, t.e, t.ac, t.zf)) =
      some (0x80, 3, 0xC, false) := by decide

/-! ### Branches (V47) -/

/-- V47.1. -/
theorem test_ba :
    after (exec (.ba 2 0x40) { st [] with pc := 0x0310, ac := 4 }) (·.pc) = some 0x0340 ∧
    after (exec (.ba 2 0x40) { st [] with pc := 0x0310, ac := 0xB }) (·.pc) = some 0x0312 := by decide
/-- V47.2. -/
theorem test_bna : after (exec (.bna 0 0x10) { st [] with ac := 6 }) (·.pc) = some 0x0110 := by decide
/-- V47.3. -/
theorem test_bm : after (exec (.bm 3 0x80) { st [(0, 8)] with pc := 0x0200 }) (·.pc) = some 0x0280 := by decide
/-- V47.4. -/
theorem test_bnm : after (exec (.bnm 1 0x22) { st [(0, 2)] with pc := 0x0500 }) (·.pc) = some 0x0502 := by decide
/-- V47.5 (the pin of the tests that is high is P32), V47.14. -/
theorem test_bp :
    after (exec (.bp 2 0x00) { st [] with dpl := 3 }) (·.pc) = some 0x0100 ∧
    stop (exec (.bp 0 0x50) { st [] with bnk := true }) = some .controlRegisterMapNotInSource := by decide
/-- V47.6. -/
theorem test_bnp : after (exec (.bnp 0 0x30) { st [] with pc := 0x0020 }) (·.pc) = some 0x0030 := by decide
/-- V47.7, V47.13. -/
theorem test_bc :
    after (exec (.bc 0x44) { st [] with pc := 0x0700, cf := true }) (·.pc) = some 0x0744 ∧
    after (exec (.bc 0x10) { st [] with pc := 0x1234, cf := true }) (·.pc) = some 0x1210 := by decide
/-- V47.7. -/
theorem test_bnc : after (exec (.bnc 0x44) { st [] with pc := 0x0700, cf := true }) (·.pc) = some 0x0702 := by decide
/-- V47.8. -/
theorem test_bz : after (exec (.bz 0x08) { st [] with pc := 0x0004, zf := true }) (·.pc) = some 0x0008 := by decide
/-- V47.12. -/
theorem test_bz_page_end :
    stop (exec (.bz 0x10) { st [] with pc := 0x02FE, zf := true }) = some .pageBoundaryTransfer ∧
    after (exec (.bz 0x10) { st [] with pc := 0x02FE }) (·.pc) = some 0x0300 := by decide
/-- V47.9. -/
theorem test_bnz : after (exec (.bnz 0x02) { st [] with pc := 0x0005 }) (·.pc) = some 0x0002 := by decide
/-- V47.10. -/
theorem test_bf : after (exec (.bf 10 0xC0) { st [] with uf := (st []).uf.set 10 true }) (·.pc) = some 0x01C0 := by decide
/-- V47.11. -/
theorem test_bnf :
    after (exec (.bnf 0 0x12) { st [] with pc := 0x0010, uf := (st []).uf.set 0 true }) (·.pc) = some 0x0012 := by decide

/-! ### I/O (V48) -/

/-- V48.1. -/
theorem test_ip0 : after (exec .ip0 (st [])) acz = some (0xA, false, false) := by decide
/-- V48.2. -/
theorem test_ip : after (exec .ip { st [] with ac := 3, dpl := 2 }) acz = some (0, false, true) := by decide
/-- V48.4, with the level of port 5 of the tests. -/
theorem test_ipm :
    after (exec .ipm { st [] with dph := 4, dpl := 5 }) (fun t => (t.ram, t.ac)) = some ([(0x45, 0xC)], 0) := by decide
/-- V48.5. -/
theorem test_ipdr : after (exec (.ipdr 6) (st [])) acz = some (0xF, false, false) := by decide
/-- V48.6. -/
theorem test_ip45 :
    after (exec .ip45 { st [] with zf := true }) (fun t => (t.e, t.ac, t.zf)) = some (3, 0xC, true) := by decide
/-- V48.7, V48.8. -/
theorem test_op :
    after (exec .op { st [] with dpl := 1, ac := 5 }) (·.pl[1]) = some 5 ∧
    stop (exec .op { st [] with dpl := 0xD }) = some .writeToInputOnlyOrAbsentPort := by decide
/-- V48.9. -/
theorem test_opm : after (exec .opm { st [(0x24, 9)] with dph := 2, dpl := 4 }) (·.pl[4]) = some 9 := by decide
/-- V48.10, and PC (port 12) by its latch. -/
theorem test_opdr :
    after (exec (.opdr 0) { st [] with ac := 0xF, pl := Vector.replicate 8 0 }) (·.pl) =
      some #v[0xF, 0, 0, 0, 0, 0, 0, 0] ∧
    after (exec (.opdr 12) { st [] with ac := 4, pl := Vector.replicate 8 0 }) (·.pl) =
      some #v[0, 0, 0, 0, 0, 0, 0, 4] := by decide
/-- V48.11. -/
theorem test_op45 :
    after (exec .op45 { st [] with e := 0xA, ac := 5 }) (fun t => (t.pl[4], t.pl[5])) = some (0xA, 5) := by decide
/-- V48.12. -/
theorem test_spb :
    after (exec (.spb 3) { st [] with dpl := 5, pl := Vector.replicate 8 1 }) (fun t => (t.pl[5], t.zf)) =
      some (9, false) := by decide
/-- V48.13. -/
theorem test_rpb :
    after (exec (.rpb 0) { st [] with dpl := 1, pl := Vector.replicate 8 1 }) (fun t => (t.pl[1], t.zf)) =
      some (0, true) := by decide
/-- V48.14, with the level of port 5 of the tests. -/
theorem test_rpb_pins :
    after (exec (.rpb 2) { st [] with dpl := 5, conf := { cfg with portRmw := .pins } }) (fun t => (t.pl[5], t.zf)) =
      some (8, false) := by decide
/-- V48.15, V48.17. -/
theorem test_andpdr :
    after (exec (.andpdr 0xC 2) (st [])) (fun t => (t.pl[2], t.zf)) = some (0xC, false) ∧
    after (exec (.andpdr 0 4) (st [])) (fun t => (t.pl[4], t.zf)) = some (0, true) := by decide
/-- V48.16. -/
theorem test_orpdr :
    after (exec (.orpdr 3 6) { st [] with pl := Vector.replicate 8 4 }) (fun t => (t.pl[6], t.zf)) =
      some (7, false) := by decide

/-- A chip whose CR[0] is EDIL bit 3, IRQ[7], the timer 0 run bit and a constant 1, and which gives no other register. -/
def mixedCfg : Conf :=
  { cfg with crMap := some ((Vector.replicate 16 { readable := false, writable := false, bits := Vector.replicate 4 .location }).set 0
      { readable := true, writable := true, bits := #v[.edil 3, .irq 7, .t0run, .fixed true] }) }

/-- R44 bit by bit; R310: a write clears a request and sets none. -/
theorem test_register_bank_bits :
    after (exec (.ipdr 0) { st [] with bnk := true, conf := mixedCfg, edil := 8, irq := 0x40 }) (·.ac) = some 9 ∧
    after (exec (.opdr 0) { st [] with bnk := true, conf := mixedCfg, ac := 7, irq := 0x40 })
      (fun t => (t.edil, t.irq, t.t0run)) = some (8, 0x40, true) ∧
    after (exec (.opdr 0) { st [] with bnk := true, conf := mixedCfg, ac := 0, irq := 0xC0, t0run := true })
      (fun t => (t.edil, t.irq, t.t0run)) = some (0, 0x40, false) ∧
    stop (exec (.opdr 1) { st [] with bnk := true, conf := mixedCfg }) = some .controlRegisterMapNotInSource := by decide

/-! ### Timer, interrupt, standby, serial and other control (V49) -/

/-- V49.1, V49.3. -/
theorem test_wttm0 :
    after (exec .wttm0 { st [(0x10, 0xE), (0x11, 0xF)] with dph := 1, ac := 0xC }) (·.t0r) = some 0xFEC ∧
    stop (exec .wttm0 { st [(0x10, 0xE), (0x11, 0xF)] with dph := 1, dpl := 1 }) = some .m2OddAddress := by decide
/-- V49.2. -/
theorem test_rtim0 :
    after (exec .rtim0 { st [] with dph := 2 }) (fun t => (t.ram, t.ac)) = some ([(0x20, 0xF), (0x21, 0xF)], 0xC) := by decide
/-- V49.4. -/
theorem test_wttm1 : after (exec .wttm1 { st [] with e := 8 }) (·.t1ra) = some 0x80 := by decide
/-- V49.5. -/
theorem test_rtim1 : after (exec .rtim1 { st [] with t1c := 0x3D }) (fun t => (t.e, t.ac)) = some (3, 0xD) := by decide
/-- V49.6. -/
theorem test_start0 : after (exec .start0 (st [])) (fun t => (t.t0run, t.t1run)) = some (true, false) := by decide
/-- V49.6. -/
theorem test_start1 : after (exec .start1 (st [])) (fun t => (t.t0run, t.t1run)) = some (false, true) := by decide
/-- V49.6. -/
theorem test_stop0 :
    after (exec .stop0 { st [] with t0run := true, t1run := true }) (fun t => (t.t0run, t.t1run)) = some (false, true) := by
  decide
/-- V49.6. -/
theorem test_stop1 :
    after (exec .stop1 { st [] with t0run := true, t1run := true }) (fun t => (t.t0run, t.t1run)) = some (true, false) := by
  decide
/-- V49.7. -/
theorem test_mset : after (exec .mset (st [])) (·.mse) = some true := by decide
/-- V49.7. -/
theorem test_mreset : after (exec .mreset { st [] with mse := true }) (·.mse) = some false := by decide
/-- V49.9. -/
theorem test_eih : after (exec (.eih 5) (st [])) (fun t => (t.edih, t.edil)) = some (5, 0) := by decide
/-- V49.11. -/
theorem test_eil : after (exec (.eil 2) { st [] with edil := 1 }) (fun t => (t.edih, t.edil)) = some (0, 3) := by decide
/-- V49.8. -/
theorem test_dih : after (exec (.dih 0xF) { st [] with edih := 6 }) (fun t => (t.edih, t.zf)) = some (0, true) := by decide
/-- V49.10. -/
theorem test_dil : after (exec (.dil 3) { st [] with edil := 7 }) (fun t => (t.edil, t.zf)) = some (4, false) := by decide
/-- V49.12. -/
theorem test_wtsp : after (exec .wtsp { st [] with e := 0xF, ac := 0xC }) (·.sp) = some 0xFC := by decide
/-- V49.13. -/
theorem test_rsp : after (exec .rsp { st [] with sp := 0x7E }) (fun t => (t.e, t.ac)) = some (7, 0xE) := by decide
/-- V49.14. -/
theorem test_halt : after (exec .halt (st [])) (fun t => (t.mode, t.pc)) = some (.halt, 0x0102) := by decide
/-- V49.15: the P33/HOLD pin low, and high. -/
theorem test_hold :
    after (exec .hold (st [])) (·.mode) = some .hold ∧
    after (exec .hold { st [] with env := { Env.quiet with pins := some (pins.set 3 8) } }) (·.mode) = some .run := by decide
/-- V49.16. -/
theorem test_wtsio : after (exec .wtsio { st [] with e := 0xA, ac := 5 }) (·.sio) = some 0xA5 := by decide
/-- V49.17. -/
theorem test_rsio : after (exec .rsio { st [] with sio := 0xA5 }) (fun t => (t.e, t.ac)) = some (0xA, 5) := by decide
/-- V49.18. -/
theorem test_starts : after (exec .starts (st [])) (·.siorun) = some true := by decide
/-- V49.19. -/
theorem test_nop :
    after (exec .nop { st [] with bnk := true, zf := true }) (fun t => (t.pc, t.bnk, t.vsk, t.zf)) =
      some (0x0101, false, false, true) := by decide
/-- V49.20. -/
theorem test_sb :
    after (exec (.sb 1) (st [])) (·.sbr) = some 1 ∧
    stop (exec (.sb 1) { st [] with conf := { cfg with part := .lc66354b } }) = some .sbBankAbsent := by decide

/-! ### Interrupts, modes and reset (V60) -/

/-- V60.1. -/
theorem test_interrupt_entry :
    after (.next (State.takeInterrupt { st [] with pc := 0x0123, cf := true, zf := true, sp := 0xF0, mse := true,
                                                   irq := 8 } 3)) (fun t => (t.ram, t.sp, t.pc, t.irq, t.mse)) =
      some ([(0xF0, 3), (0xF1, 2), (0xF2, 1), (0xF3, 0xC)], 0xEC, 0x0020, 0, false) := by decide
/-- V60.3. -/
theorem test_request_with_master_off :
    State.chooseIrq { st [] with edil := 8, irq := 8 } = none ∧
    State.chooseIrq { st [] with mse := true, edil := 8, irq := 8 } = some 3 := by decide
/-- V60.6, V60.7. -/
theorem test_reset_by_pin :
    State.resetOccurs { st [] with env := { Env.quiet with resLow := true, pins := some (pins.set 3 8) } } = true ∧
    State.resetOccurs { st [] with env := { Env.quiet with resLow := true, pins := some pins } } = false := by decide
/-- V60.6. -/
theorem test_reset_state :
    (State.afterReset { st [(0, 1)] with pc := 0x0555 }).pc = 0 ∧
    (State.afterReset { st [(0, 1)] with pc := 0x0555 }).t0c = 0xFFC ∧
    (State.afterReset { st [(0, 1)] with pc := 0x0555 }).pl = #v[0xF, 0, 0xF, 0xF, 0xF, 0xF, 0xF, 0xF] ∧
    (State.afterReset { st [(0, 1)] with pc := 0x0555 }).ram = [] := by decide
/-- V60.5. -/
theorem test_hold_release :
    after (step { st [] with mode := .hold, pc := 0x0222, env := { Env.quiet with pins := some (pins.set 3 8) } })
      (fun t => (t.mode, t.t0c, t.pc)) = some (.run, 0xFFC, 0x0222) := by decide

/-! ### The step (R112) -/

/-- P1, the first instruction, and an image of two bytes placed as the host places one. -/
theorem test_step_fetches :
    after (step { st [] with rom := [(0x100, 0xC0), (0x101, 0x10)] }) (fun t => (t.pc, t.hl)) = some (0x0102, 0x10) ∧
    after (step ((st []).withFetchWord 16 0xC010)) (fun t => (t.pc, t.hl)) = some (0x0102, 0x10) := by decide

/-- From reset with nothing placed, the first fetch finds no byte of the mask ROM (notes/assumptions/4.md); with an
instruction placed it runs. -/
theorem test_step_from_reset :
    stop (step State.reset) = some .romByteNotGiven ∧
    after (step (State.reset.withFetchWord 8 0x1F)) (·.cf) = some true := by decide

/-! ### Hypotheses: for each statement with hypotheses, states and operands that meet them, at the ends of their ranges -/

/-- A NOP at the address, and PC there. -/
def nopAt (a : RomAddr) : State := { st [] with pc := a, rom := [(a.toNat, 0x00)] }

/-- A chip whose port instructions after BANK reach sixteen locations of their own. -/
def crCfg : Conf :=
  { cfg with crMap := some (Vector.replicate 16 { readable := true, writable := true, bits := Vector.replicate 4 .location }) }

/-- A state after BANK on that chip. -/
def crSt : State := { st [(0x100, 6)] with bnk := true, conf := crCfg }

theorem test_hypotheses_DecodeOfEncodeIsInstruction :
    defaultEnc2.legal = true ∧ otherEnc2.legal = true ∧ (Instr.jmp 0xFFF).encodable defaultEnc2 = true ∧
    (Instr.lai 15).encodable otherEnc2 = true ∧ (Instr.eih 0).encodable otherEnc2 = true ∧
    (Instr.sb 3).encodable defaultEnc2 = true ∧ (Instr.push .ae).encodable otherEnc2 = true :=
  ⟨by decide, by decide, rfl, rfl, rfl, rfl, rfl⟩

theorem test_hypotheses_EncodeOfDecodeIsBytes :
    dec [0xE0, 0x00, 0xFF] = .ok (.jmp 0, [0xFF]) ∧ dec [0x00] = .ok (.nop, []) ∧
    dec [0xFF, 0xFF] = .ok (.bf 15 0xFF, []) := ⟨rfl, rfl, rfl⟩

theorem test_hypotheses_LengthFromFirstByte :
    dec [0x4F] = .ok (.xaI .xy, []) ∧ dec [0x50, 0] = .ok (.cal 0, []) ∧ dec [0x57, 0] = .ok (.cal 0x700, []) ∧
    dec [0x58] = .ok (.rtblp, []) ∧ dec [0x90, 0] = .ok (.bna 0 0, []) ∧ dec [0x9D, 0] = .ok (.bnz 0, []) ∧
    dec [0xB0, 0] = .ok (.bnf 0 0, []) ∧ dec [0xC9, 0] = .ok (.addr 0, []) ∧ dec [0xCA] = .ok (.wttm0, []) ∧
    dec [0xCD, 0x50] = .ok (.mset, []) ∧ dec [0xCF, 0x00] = .ok (.lhi 0, []) ∧
    dec [0xD0, 0] = .ok (.ba 0 0, []) ∧ dec [0xDD, 0] = .ok (.bz 0, []) ∧ dec [0xE0, 0] = .ok (.jmp 0, []) ∧
    dec [0xFF, 0] = .ok (.bf 15 0, []) ∧ decode otherEnc2 [0xCF, 0xE6, 0] = .ok (.mset, [0]) :=
  ⟨rfl, rfl, rfl, rfl, rfl, rfl, rfl, rfl, rfl, rfl, rfl, rfl, rfl, rfl, rfl, rfl⟩

/-- What every clause about a step in RUN mode supposes. -/
abbrev Runs (s : State) : Prop := s.mode = .run ∧ s.resetOccurs = false ∧ s.atBoundary.irqChoice = .none

/-- A one-byte instruction in the last byte of bank 0 and an unassigned byte there; a two-byte instruction that ends the
bank, bytes that are no row, a second byte not given, one in the other bank; and PC in the first byte past the ROM. -/
theorem test_hypotheses_StepRunsDecodedInstruction :
    (Runs (nopAt 0x0FFF) ∧ romRead (nopAt 0x0FFF) 0x0FFF = .ok 0 ∧ dec [0] = .ok (.nop, [])) ∧
    (∃ s : State, Runs s ∧ romRead s s.pc = .ok 0x9E) ∧
    (∃ s : State, Runs s ∧ romRead s s.pc = .ok 0xE1 ∧ dec [0xE1] = .error .endOfBytes ∧ s.RoomForNpc 1 ∧
      romRead s (s.pc + 1) = .ok 0x23 ∧ dec [0xE1, 0x23] = .ok (.jmp 0x123, [])) ∧
    (∃ s : State, Runs s ∧ romRead s s.pc = .ok 0xCF ∧ dec [0xCF] = .error .endOfBytes ∧ s.RoomForNpc 1 ∧
      romRead s (s.pc + 1) = .ok 0xFE ∧ dec [0xCF, 0xFE] = .error .illegalSetting) ∧
    (∃ s : State, Runs s ∧ romRead s s.pc = .ok 0xCF ∧ s.RoomForNpc 1 ∧ s.rom.read (s.pc.toNat + 1) = none) ∧
    (∃ s : State, Runs s ∧ romRead s s.pc = .ok 0xCF ∧ ¬ s.RoomForNpc 1) ∧
    (∃ s : State, Runs s ∧ s.conf.part.romSize = s.pc.toNat) ∧
    ∃ s : State, Runs s ∧ s.pc.toNat < s.conf.part.romSize ∧ s.rom.read s.pc.toNat = none :=
  ⟨⟨by decide, rfl, rfl⟩, ⟨{ st [] with rom := [(0x100, 0x9E)] }, by decide, rfl⟩,
    ⟨{ st [] with pc := 0x0FFE, rom := [(0xFFE, 0xE1), (0xFFF, 0x23)] }, by decide, rfl, rfl, by decide, rfl, rfl⟩,
    ⟨{ st [] with rom := [(0x100, 0xCF), (0x101, 0xFE)] }, by decide, rfl, rfl, by decide, rfl, rfl⟩,
    ⟨{ st [] with rom := [(0x100, 0xCF)] }, by decide, rfl, by decide, rfl⟩,
    ⟨{ st [] with pc := 0x0FFF, rom := [(0xFFF, 0xCF)] }, by decide, rfl, by decide⟩,
    ⟨{ st [] with pc := 0x1800, conf := { cfg with part := .lc66356b } }, by decide, rfl⟩,
    st [], by decide, by decide, rfl⟩

theorem test_hypotheses_BoundaryTouchesPeripheralsOnly : (st []).siorun = false := rfl

theorem test_hypotheses_EveryStepKeepsInvariant : (nopAt 0x0FFE).Inv ∧ ∃ t, step (nopAt 0x0FFE) = .next t :=
  ⟨by decide, _, rfl⟩

theorem test_hypotheses_RunsKeepInvariantRomAndOptions :
    ∃ s t : State, s.Inv ∧ Reaches s t ∧ s.pc ≠ t.pc :=
  ⟨nopAt 0x0100, _, by decide, .step .quiet (.refl _) rfl, by decide⟩

/-- The pin, the watchdog, and neither; the pin also in HOLD mode, the watchdog in HALT mode. -/
theorem test_hypotheses_ResetByPinOrWatchdog :
    (∃ s : State, s.env.resLow = true ∧ s.p33High = true ∧ s.mode = .hold) ∧
    (∃ s : State, s.env.watchdogExpired = true ∧ s.conf.options.watchdog = true ∧ s.mode = .halt) ∧
    (st []).p33High = false ∧ (st []).env.watchdogExpired = false :=
  ⟨⟨{ st [] with mode := .hold, env := { Env.quiet with resLow := true, pins := some (pins.set 3 8) } }, by decide⟩,
    ⟨{ st [] with mode := .halt, env := { (st []).env with watchdogExpired := true } }, by decide⟩, by decide⟩

/-- HALT mode in the tests, with the events given. -/
def halted (requests : BitVec 8) (release : Bool) : State :=
  { st [] with mode := .halt, mse := true, edih := 8,
               env := { (st []).env with irqEvents := requests, haltRelease := release } }

theorem test_hypotheses_HaltModeGoesOnOrEnds :
    ((halted 0x80 true).mode = .halt ∧ (halted 0x80 true).resetOccurs = false ∧
      (halted 0x80 true).atBoundary.irqChoice = .take 7) ∧
    ((halted 0x40 true).resetOccurs = false ∧ (halted 0x40 true).atBoundary.irqChoice = .none ∧
      (halted 0x40 true).env.haltRelease = true) ∧
    ((halted 0 false).resetOccurs = false ∧ (halted 0 false).atBoundary.irqChoice = .none ∧
      (halted 0 false).env.haltRelease = false) := by decide

theorem test_hypotheses_HoldModeGoesOnOrEnds :
    (∃ s : State, s.mode = .hold ∧ s.resetOccurs = false ∧ s.p33High = false) ∧
    ∃ s : State, s.mode = .hold ∧ s.resetOccurs = false ∧ s.p33High = true :=
  ⟨⟨{ st [] with mode := .hold }, by decide⟩,
    { st [] with mode := .hold, env := { Env.quiet with pins := some (pins.set 3 8) } }, by decide⟩

theorem test_hypotheses_InterruptChosenWhereOneQualifies :
    State.chooseIrq { st [] with mse := true, edil := 1, irq := 1 } = some 0 ∧
    State.chooseIrq { st [] with mse := true, edih := 0xF, edil := 0xE, irq := 0x81 } = some 7 ∧
    State.chooseIrq { st [] with mse := true, edil := 0xE, irq := 1 } = none := by decide

/-- A state in which interrupt 0 has just been requested. -/
def requested (b v : Bool) (w : IrqWindow) : State :=
  { st [] with mse := true, edil := 1, bnk := b, vsk := v, conf := { cfg with irqWindow := w },
               env := { (st []).env with irqEvents := 1 } }

/-- The default IRQ_ENTRY_EFFECTS, and those that clear the enable flag and neither MSE nor the request. -/
theorem test_hypotheses_InterruptEntryStoresFrame :
    ((requested false false .defer).mode = .run ∧ (requested false false .defer).resetOccurs = false ∧
      (requested false false .defer).bnk = false ∧ (requested false false .defer).vsk = false ∧
      (requested false false .defer).conf.entryEffects.clearsEnable = false ∧
      (requested false false .defer).atBoundary.chooseIrq = some 0) ∧
    ∃ s : State, s.mode = .run ∧ s.resetOccurs = false ∧ s.bnk = false ∧ s.vsk = false ∧
      s.atBoundary.chooseIrq = some 7 ∧ s.conf.entryEffects.clearsEnable = true ∧
      s.conf.entryEffects.clearsMaster = false ∧ s.conf.entryEffects.clearsRequest = false :=
  ⟨by decide,
    { st [] with mse := true, edih := 8, irq := 0x80, conf := { cfg with entryEffects := ⟨false, false, true, false⟩ } },
    by decide⟩

theorem test_hypotheses_PrefixWindow :
    ((requested true false .undefined).mode = .run ∧ (requested true false .undefined).resetOccurs = false ∧
      (requested true false .undefined).bnk = true ∧ (requested true false .undefined).atBoundary.chooseIrq = some 0 ∧
      (requested true false .undefined).conf.irqWindow = .undefined) ∧
    (requested false true .defer).resetOccurs = false ∧ (requested false true .defer).vsk = true ∧
      (requested false true .defer).atBoundary.chooseIrq = some 0 ∧
      (requested false true .defer).conf.irqWindow = .defer := by decide

theorem test_hypotheses_StoredFrameComesBack :
    ((State.takeInterrupt (st []) 7).conf = (st []).conf ∧
      (State.takeInterrupt (st []) 7).ram = ((st []).takeInterrupt 7).ram) ∧
    (∃ s t : State, s.sp = 0x01 ∧ exec (.cal 0x7FF) s = .next t ∧ t.conf = s.conf) ∧
    ∃ s t : State, s.sp = 0xFF ∧ exec (.czp 15) s = .next t ∧ t.conf = s.conf :=
  ⟨⟨rfl, rfl⟩, ⟨{ st [] with sp := 0x01 }, _, rfl, rfl, rfl⟩, { st [] with sp := 0xFF }, _, rfl, rfl, rfl⟩

/-! #### Rules over all instructions -/

theorem test_hypotheses_OnlyListedInstructionsWriteCarry :
    ∃ t, exec (.adi 15) (st []) = .next t ∧ writesCarry (.adi 15) = false := ⟨_, rfl, rfl⟩

theorem test_hypotheses_OnlyListedInstructionsWriteZero :
    ∃ t, exec (.xa .hl) (st [(0, 3)]) = .next t ∧ writesZero (.xa .hl) = false := ⟨_, rfl, rfl⟩

theorem test_hypotheses_OnlyListedInstructionsWriteRegisters :
    ∃ t, exec .tea (st []) = .next t ∧ writesE .tea = false ∧ writesDph .tea = false ∧ writesDpl .tea = false ∧
      writesDpx .tea = false ∧ writesDpy .tea = false ∧ writesStackPointer .tea = false ∧
      ∀ n, Instr.tea ≠ .sfb n ∧ Instr.tea ≠ .rfb n :=
  ⟨_, rfl, rfl, rfl, rfl, rfl, rfl, rfl, fun _ => ⟨nofun, nofun⟩⟩

theorem test_hypotheses_OnlyListedInstructionsWriteControlState :
    (∃ t, exec .nop (st []) = .next t ∧ drawsFreeValue .nop = false ∧ writesPort .nop = false) ∧
    (∃ t, exec (.opdr 15) crSt = .next t ∧ crSt.bnk = true ∧ drawsFreeValue (.opdr 15) = false) ∧
    ∃ s t : State, exec (.opdr 0) s = .next t ∧ s.conf = mixedCfg ∧ s.irq = 0xC0 ∧ t.irq = 0x40 :=
  ⟨⟨_, rfl, rfl, rfl⟩, ⟨_, rfl, rfl, rfl⟩, { st [] with bnk := true, conf := mixedCfg, irq := 0xC0 }, _, rfl, rfl, rfl, by decide⟩

theorem test_hypotheses_OnlyListedInstructionsStore :
    ∃ t, exec .ad (st [(0, 3)]) = .next t ∧ storesToRam .ad = false := ⟨_, rfl, rfl⟩

theorem test_hypotheses_PrefixStatesAfterInstruction :
    (∃ t, exec .bank (st []) = .next t ∧ t.bnk = true) ∧ (∃ t, exec .cla (st []) = .next t ∧ t.vsk = true) ∧
    ∃ t, exec .nop { st [] with vsk := true } = .next t ∧ t.vsk = false :=
  ⟨⟨_, rfl, rfl⟩, ⟨_, rfl, rfl⟩, _, rfl, rfl⟩

/-- A JMP and a NOP that end at the last byte of a bank, and an RT in it. -/
theorem test_hypotheses_BankEnds :
    (∃ t, exec .nop { st [] with pc := 0x0FFE } = .next t ∧ usesNoNextAddress .nop = false ∧ leavesBank .nop = false ∧
      State.RoomForNpc { st [] with pc := 0x0FFE } 1) ∧
    (∃ t, exec (.jmp 0) { st [] with pc := 0x1FFD } = .next t ∧ leavesBank (.jmp 0) = false) ∧
    ∃ t, exec .rt { st [(4, 1), (5, 0), (6, 0), (7, 0)] with pc := 0x0FFF } = .next t ∧ usesNoNextAddress .rt = true :=
  ⟨⟨_, rfl, rfl, rfl, by decide⟩, ⟨_, rfl, rfl⟩, _, rfl, rfl⟩

/-! #### The instructions -/

theorem test_hypotheses_RegisterMovesAndExchanges :
    State.RoomForNpc { st [] with pc := 0x0FFE } 1 ∧ State.RoomForNpc { st [] with pc := 0x0FFD } 2 := by decide

theorem test_hypotheses_ImmediatesIntoPairs :
    State.RoomForNpc { st [] with pc := 0x0FFE } 1 ∧ State.RoomForNpc { st [] with pc := 0x0FFD } 2 := by decide

theorem test_hypotheses_CarryRotateUserFlagAndNop :
    State.RoomForNpc { st [] with pc := 0x1FFE } 1 ∧ (15 : Nibble) ≠ 14 := by decide

theorem test_hypotheses_AddImmediateAndDecimalAdjust :
    State.RoomForNpc { st [] with pc := 0x0FFD } 2 ∧ (15 : Nibble) ≠ 6 ∧ (15 : Nibble) ≠ 10 := by decide

/-- What every statement about a word of memory supposes of the state, the address and the word: RAM[0FFH] = 15 at the
end of bank 0, and the word at 100H after BANK. -/
def MemoryHypotheses : Prop :=
  (∃ s : State, ramRead s.ram 0xFF = some 15 ∧ s.dataAddr s.hl = some 0xFF ∧ s.dataAddr s.xy = some 0xFF ∧
    s.dataAddr 0xFF = some 0xFF ∧ s.RoomForNpc 1 ∧ s.RoomForNpc 2) ∧
  ∃ s : State, ramRead s.ram 0x100 = some 6 ∧ s.dataAddr s.hl = some 0x100 ∧ s.dataAddr s.xy = some 0x100 ∧
    s.dataAddr 0 = some 0x100 ∧ s.RoomForNpc 1 ∧ s.RoomForNpc 2

theorem memoryHypotheses : MemoryHypotheses :=
  ⟨⟨{ st [(0xFF, 0xF)] with pc := 0x0FFD, dph := 0xF, dpl := 0xF, dpx := 0xF, dpy := 0xF }, by decide⟩, crSt, by decide⟩

theorem test_hypotheses_StoresAndExchanges :
    MemoryHypotheses ∧ (st []).dataAddr (st []).hl = some 0 ∧ (st []).dataAddr (st []).xy = some 0 ∧
      (st []).dataAddr 0 = some 0 ∧ ramRead (st []).ram 0 = none := ⟨memoryHypotheses, by decide⟩
theorem test_hypotheses_SteppingLoadsAndExchanges : MemoryHypotheses := memoryHypotheses
theorem test_hypotheses_CompareMagnitude : MemoryHypotheses := memoryHypotheses
theorem test_hypotheses_MemoryIncrementsAndDecrements : MemoryHypotheses := memoryHypotheses
theorem test_hypotheses_MemoryLogic : MemoryHypotheses := memoryHypotheses
theorem test_hypotheses_MemoryArithmetic : MemoryHypotheses := memoryHypotheses
theorem test_hypotheses_AccumulatorLogicAndLoads : MemoryHypotheses := memoryHypotheses
theorem test_hypotheses_ImmediateAndBitComparisons : MemoryHypotheses := memoryHypotheses

theorem test_hypotheses_TransfersIntoAccumulator :
    State.RoomForNpc { st [] with pc := 0x0FFE } 1 ∧ State.RoomForNpc { st [] with pc := 0x0FFD } 2 := by decide

theorem test_hypotheses_IncrementsDecrementsAndRotateLeft : State.RoomForNpc { st [] with pc := 0x0FFE } 1 := by decide

theorem test_hypotheses_VerticalSkip :
    (∃ s : State, s.RoomForNpc 1 ∧ s.vsk = true ∧ s.conf.vskip = true) ∧ (∃ s : State, s.RoomForNpc 1 ∧ s.vsk = false) ∧
    ∃ s : State, s.RoomForNpc 1 ∧ s.vsk = true ∧ s.conf.vskip = false :=
  ⟨⟨{ st [] with pc := 0x0FFE, vsk := true }, by decide⟩, ⟨st [], by decide⟩,
    { st [] with vsk := true, conf := { cfg with vskip := false } }, by decide⟩

theorem test_hypotheses_PairTransfers : State.RoomForNpc { st [] with pc := 0x0FFD } 2 := by decide

/-- A chip on which a data-memory instruction after BANK is Undefined. -/
def noBank : State := { st [] with conf := { cfg with dataBankRule := .none } }

theorem test_hypotheses_DataMemoryOperands :
    (st []).conf.dataBankRule = .byPrefix ∧ (noBank.conf.dataBankRule = .none ∧ noBank.bnk = false) ∧
    State.dataAddr { noBank with bnk := true } 0xFF = none ∧ State.dataAddr { noBank with bnk := true } 0 = none ∧
    ((st [(0xFF, 1)]).dataAddr 0xFE = some 0xFE ∧ ramRead (st [(0xFF, 1)]).ram 0xFE = none) ∧
    ∃ s : State, s.dataAddr s.hl = none ∧ s.crRead s.dpl = some 0 ∧ s.dpl.getLsbD 0 = false :=
  ⟨by decide, by decide, by decide, by decide, by decide,
    { noBank with bnk := true, dpl := 14, conf := { noBank.conf with crMap := crCfg.crMap } }, by decide⟩

theorem test_hypotheses_TwoWordOperands :
    (∃ s : State, s.dpl.getLsbD 0 = true) ∧
    (∃ s : State, s.dpl.getLsbD 0 = false ∧ s.dataAddr s.hl = some 0xFE ∧ s.dataAddr (s.hl + 1) = some 0xFF ∧
      s.RoomForNpc 1 ∧ ramRead s.ram 0xFE = some 1 ∧ ramRead s.ram 0xFF = some 2) ∧
    ∃ s : State, s.dpl.getLsbD 0 = false ∧ s.dataAddr s.hl = some 0xFE ∧ s.dataAddr (s.hl + 1) = some 0xFF ∧
      ramRead s.ram 0xFE = some 1 ∧ ramRead s.ram 0xFF = none :=
  ⟨⟨{ st [] with dpl := 15 }, by decide⟩, ⟨{ st [(0xFE, 1), (0xFF, 2)] with dph := 15, dpl := 14 }, by decide⟩,
    { st [(0xFE, 1)] with dph := 15, dpl := 14 }, by decide⟩

theorem test_hypotheses_TableReads :
    (∃ s : State, s.RoomInPage 1 ∧ s.bnk = false ∧ romRead s (s.pageAddr (s.e ++ s.ac : Byte)) = .ok 0x5A) ∧
    (∃ s : State, s.RoomInPage 1 ∧ romRead s (s.pageAddr (s.e ++ s.ac : Byte)) = .error .romByteNotGiven) ∧
    ¬ State.RoomInPage { st [] with pc := 0x02FF } 1 :=
  ⟨⟨{ st [] with pc := 0x02FE, e := 15, ac := 15, rom := [(0x2FF, 0x5A)] }, by decide, rfl, rfl⟩,
    ⟨st [], by decide, rfl⟩, by decide⟩

theorem test_hypotheses_ResetUserFlag : State.RoomForNpc { st [] with pc := 0x0FFE } 1 ∧ (15 : Nibble) ≠ 0 := by decide

theorem test_hypotheses_JumpsAndBank :
    State.RoomInPage { st [] with pc := 0x02FE } 1 ∧ ¬ State.RoomInPage { st [] with pc := 0x02FF } 1 ∧
    State.RoomForNpc { st [] with pc := 0x0FFE } 1 ∧ ¬ State.RoomForNpc { st [] with pc := 0x0FFF } 1 ∧
    (1 : BitVec 2).toNat < (if (st []).conf.part = .lc66354b then 1 else 2) ∧
    State.RoomForNpc { st [] with pc := 0x0FFD } 2 ∧ ¬ State.RoomForNpc { st [] with pc := 0x0FFE } 2 ∧
    ¬ State.RoomForNpc { st [] with pc := 0x17FE, conf := { cfg with part := .lc66356b } } 2 ∧
    (if (st []).conf.part = .lc66354b then 1 else 2) ≤ (2 : BitVec 2).toNat := by decide

theorem test_hypotheses_CallsStoreFrame :
    State.RoomForNpc { st [] with pc := 0x0FFD, sp := 0xFE } 2 ∧ ¬ State.RoomForNpc { st [] with pc := 0x0FFE } 2 ∧
    State.RoomForNpc { st [] with pc := 0x0FFE, sp := 0xFE } 1 ∧ ¬ State.RoomForNpc { st [] with pc := 0x0FFF } 1 := by
  decide

theorem test_hypotheses_PushStoresPair : State.RoomForNpc { st [] with pc := 0x0FFD, sp := 0xFF } 2 := by decide

/-- The four words above SP, over the end of the stack bank, and a stack without values. -/
theorem test_hypotheses_PopsAndReturnsLoad :
    (∃ s : State, ramRead s.ram (s.stackAddr 2) = some 5 ∧ ramRead s.ram (s.stackAddr 3) = some 6 ∧ s.RoomForNpc 2) ∧
    (∃ s : State, ramRead s.ram (s.stackAddr 4) = some 1 ∧ ramRead s.ram (s.stackAddr 5) = some 2 ∧
      ramRead s.ram (s.stackAddr 6) = some 3 ∧ ramRead s.ram (s.stackAddr 7) = some 4) ∧
    ramRead (st []).ram ((st []).stackAddr 2) = none ∧ ramRead (st []).ram ((st []).stackAddr 4) = none :=
  ⟨⟨{ st [(0x00, 6), (0xFF, 5)] with pc := 0x0FFD, sp := 0xFD }, by decide⟩,
    ⟨{ st [(0x00, 2), (0x01, 3), (0x02, 4), (0xFF, 1)] with sp := 0xFB }, by decide⟩, by decide⟩

/-- The four ends of a branch: taken and not, with and without room. -/
theorem test_hypotheses_BranchesOnRegistersAndFlags :
    (∃ s : State, s.ac.getLsbD 3 = true ∧ s.RoomInPage 2) ∧ (∃ s : State, s.cf = true ∧ ¬ s.RoomInPage 2) ∧
    (∃ s : State, s.zf = false ∧ s.RoomForNpc 2) ∧ ∃ s : State, s.uf[15] = false ∧ ¬ s.RoomForNpc 2 :=
  ⟨⟨{ st [] with ac := 8, pc := 0x02FD }, by decide⟩, ⟨{ st [] with cf := true, pc := 0x02FE }, by decide⟩,
    ⟨{ st [] with pc := 0x0FFD }, by decide⟩, { st [] with pc := 0x0FFE }, by decide⟩

theorem test_hypotheses_BranchesOnMemoryAndPorts :
    (∃ s : State, s.dataAddr s.hl = some 0xFF ∧ ramRead s.ram 0xFF = some 8 ∧ s.RoomInPage 2) ∧
    (∃ s : State, s.bnk = false ∧ (s.pinLevels s.dpl).getLsbD 0 = true ∧ s.RoomInPage 2) ∧
    crSt.bnk = true ∧ crSt.crRead crSt.dpl = some 0 ∧ crSt.RoomForNpc 2 :=
  ⟨⟨{ st [(0xFF, 8)] with dph := 15, dpl := 15, pc := 0x02FD }, by decide⟩, ⟨{ st [] with dpl := 15 }, by decide⟩,
    by decide⟩

theorem test_hypotheses_PortInputs :
    (∃ s : State, s.bnk = false ∧ s.RoomForNpc 1 ∧ s.RoomForNpc 2 ∧ s.dpl = 15 ∧ s.dataAddr s.hl = some 0xFF) ∧
    (st []).env.pins = some pins :=
  ⟨⟨{ st [] with dph := 15, dpl := 15, pc := 0x0FFD }, by decide⟩, rfl⟩

theorem test_hypotheses_PortOutputs :
    ∃ s : State, s.bnk = false ∧ s.dpl.toNat = latchPort 7 ∧ s.RoomForNpc 1 ∧ s.RoomForNpc 2 ∧
      s.dataAddr s.hl = some 0x0C ∧ ramRead s.ram 0x0C = some 9 ∧ (0 : Nibble).toNat = latchPort 0 :=
  ⟨{ st [(0x0C, 9)] with dpl := 12 }, by decide⟩

theorem test_hypotheses_PortReadModifyWrites :
    (∃ (s : State) (old : Nibble), s.bnk = false ∧ (12 : Nibble).toNat = latchPort 7 ∧ s.conf.portRmw = .latch ∧
      old = s.pl[7] ∧ s.dpl = 12 ∧ s.RoomForNpc 1 ∧ s.RoomForNpc 2) ∧
    ∃ (s : State) (old : Nibble), s.bnk = false ∧ (0 : Nibble).toNat = latchPort 0 ∧ s.conf.portRmw = .pins ∧
      old = s.pinLevels 0 ∧ s.dpl = 0 ∧ s.RoomForNpc 1 ∧ s.RoomForNpc 2 :=
  ⟨⟨{ st [] with dpl := 12 }, _, rfl, rfl, rfl, rfl, rfl, by decide, by decide⟩,
    { st [] with conf := { cfg with portRmw := .pins } }, _, rfl, rfl, rfl, rfl, rfl, by decide, by decide⟩

theorem test_hypotheses_RegisterBankAccess :
    crSt.bnk = true ∧ (∀ n ∈ [0, 4, 5, 15], crSt.crRead n = some 0) ∧ crSt.RoomForNpc 1 ∧ crSt.RoomForNpc 2 ∧
    crSt.dataAddr crSt.hl = some 0x100 ∧ ramRead crSt.ram 0x100 = some 6 ∧
    (∀ n ∈ [0, 4, 15], crSt.crWrite n 9 = some { crSt with cr := crSt.cr.set n.toNat 9 }) ∧
    (∃ u u', crSt.crWrite 4 crSt.e = some u ∧ u.crWrite 5 crSt.ac = some u') ∧
    ∃ s u u' : State, s.bnk = true ∧ s.RoomInPage 1 ∧ romRead s (s.pageAddr (s.e ++ s.ac : Byte)) = .ok 0x5A ∧
      s.crWrite 4 5 = some u ∧ u.crWrite 5 10 = some u' :=
  ⟨rfl, by decide, by decide, by decide, by decide, by decide, by decide, ⟨_, _, rfl, rfl⟩,
    { crSt with rom := [(0x100, 0x5A)] }, _, _, rfl, by decide, rfl, rfl, rfl⟩

theorem test_hypotheses_PortStops :
    (∃ s : State, s.bnk = false ∧ noLatch 7 ∧ noLatch 11 ∧ noLatch 13 ∧ noLatch 15 ∧ s.dpl = 15 ∧
      s.dataAddr s.hl = some 0x0F ∧ ramRead s.ram 0x0F = some 1) ∧
    (∃ s : State, s.bnk = true ∧ s.conf.crMap = none ∧ s.dataAddr s.hl = some 0x100 ∧ ramRead s.ram 0x100 = some 6 ∧
      s.RoomInPage 1 ∧ romRead s (s.pageAddr (s.e ++ s.ac : Byte)) = .ok 0x5A) ∧
    ∃ s : State, s.bnk = true ∧ s.crRead 0 ≠ none ∧ (∀ n ∈ [4, 5, 15], s.crRead n = none ∧ s.crWrite n 9 = none) ∧
      s.dpl = 15 ∧ s.dataAddr s.hl = some 0x10F ∧ ramRead s.ram 0x10F = some 6 ∧ s.RoomInPage 1 ∧
      romRead s (s.pageAddr (s.e ++ s.ac : Byte)) = .ok 0x5A :=
  ⟨⟨{ st [(0x0F, 1)] with dpl := 15 }, rfl, .inl (by decide), .inl (by decide), .inr (by decide), .inr (by decide),
      rfl, rfl, rfl⟩,
    ⟨{ st [(0x100, 6)] with bnk := true, rom := [(0x100, 0x5A)] }, rfl, rfl, rfl, rfl, by decide, rfl⟩,
    { st [(0x10F, 6)] with bnk := true, dpl := 15, rom := [(0x100, 0x5A)], conf := mixedCfg }, rfl, by decide, by decide, rfl,
    rfl, rfl, by decide, rfl⟩

theorem test_hypotheses_RunBits : State.RoomForNpc { st [] with pc := 0x0FFD } 2 := by decide

theorem test_hypotheses_InterruptEnables : State.RoomForNpc { st [] with pc := 0x0FFD } 2 ∧ 0 < 4 ∧ 3 < 4 := by decide

theorem test_hypotheses_StandbyEntry :
    ((st []).RoomForNpc 2 ∧ ((st []).pinLevels 3).getLsbD 3 = false) ∧
    ∃ s : State, s.RoomForNpc 2 ∧ (s.pinLevels 3).getLsbD 3 = true :=
  ⟨by decide, { st [] with pc := 0x0FFD, env := { Env.quiet with pins := some (pins.set 3 8) } }, by decide⟩

theorem test_hypotheses_OptionBytesAndPinDrive :
    (12 : Nibble).toNat = latchPort 7 ∧ (outputPins 12).getLsbD 3 = true ∧ (outputPins 12).getLsbD 2 = true ∧
    (0 : Nibble).toNat = latchPort 0 ∧ (outputPins 0).getLsbD 0 = true ∧
    (3 : Nibble).toNat = latchPort 3 ∧ (outputPins 3).getLsbD 2 = true := by decide

end Sys2Proof.Tests
end

section
/-! SUPPORT. The statements of the spec's scope: the option bytes and how a latch drives its pin (R8, R9, R251), and
the jumps, BANK and SB (R221, R224, R225, R296). -/

namespace Sys2Proof.Machine

variable {s : State}

/-! ### Where an instruction with a prefix or a transfer ends -/

theorem npcUsable_eq_false_of_no_room {len : Nat} (h : ¬ s.RoomForNpc len) (hl : len < 4096 := by decide) :
    s.npcUsable len = false := by
  rwa [← Bool.not_eq_true, npcUsable_iff hl]

theorem advanceWith_of_room {len : Nat} (b v : Bool) (h : s.RoomForNpc len) (hl : len < 4096 := by decide) :
    advanceWith len b v s = .next (s.retire (s.npc len) b v) :=
  advanceWith_of_usable len b v ((npcUsable_iff hl).2 h)

theorem advanceWith_of_no_room {len : Nat} (b v : Bool) (h : ¬ s.RoomForNpc len) (hl : len < 4096 := by decide) :
    advanceWith len b v s = .fault .pcOutOfBankOrRom := by
  simp [advanceWith, npcUsable_eq_false_of_no_room h hl]

theorem jumpTo_eq_wentTo (p : RomAddr) : jumpTo p s = .next (.wentTo p s) := rfl

theorem jumpInPage_of_room {len : Nat} (low : Byte) (h : s.RoomInPage len) (hl : len < 256 := by decide) :
    jumpInPage len low s = .next (.wentTo (s.pageAddr low) s) := by
  rw [jumpInPage, if_pos ((npcInPage_iff hl).2 h), inPage_eq_pageAddr hl low h, jumpTo_eq_wentTo]

theorem jumpInPage_of_no_room {len : Nat} (low : Byte) (h : ¬ s.RoomInPage len) (hl : len < 256 := by decide) :
    jumpInPage len low s = .fault .pageBoundaryTransfer := by
  rw [jumpInPage, if_neg (mt (npcInPage_iff hl).1 h)]

/-! ### JMP, JPEA, BANK and SB -/

theorem exec_jmp (a : BitVec 12) : exec (.jmp a) s = execJmp a s := rfl

theorem exec_jpea : exec .jpea s = jumpInPage 1 (s.e ++ s.ac : Byte) s := rfl

theorem exec_bank : exec .bank s = advanceWith 1 true false s := rfl

theorem exec_sb (i : BitVec 2) : exec (.sb i) s = execSb i s := rfl

/-- The bank JMP goes to: its own, or after BANK the other (log 42). -/
theorem jmpBank_eq (b prefixed : Bool) : (b ^^ prefixed) = if prefixed then !b else b := by
  cases prefixed <;> simp

theorem execJmp_of_room (a : BitVec 12) (h : s.RoomForNpc 2) :
    execJmp a s =
      .next (.wentTo (BitVec.ofBool (if s.bnk then !s.pc.getLsbD 12 else s.pc.getLsbD 12) ++ a : RomAddr) s) := by
  rw [execJmp, if_pos ((npcUsable_iff (by decide)).2 h), jmpBank_eq, jumpTo_eq_wentTo]

theorem execJmp_of_no_room (a : BitVec 12) (h : ¬ s.RoomForNpc 2) : execJmp a s = .fault .pcOutOfBankOrRom := by
  simp [execJmp, npcUsable_eq_false_of_no_room h]

theorem nbanks_eq (p : Part) : p.nbanks = if p = .lc66354b then 1 else 2 := by
  cases p <;> rfl

theorem execSb_of_present {i : BitVec 2} (hi : i.toNat < s.conf.part.nbanks) (h : s.RoomForNpc 2) :
    execSb i s = .next (.ended 2 { s with sbr := i }) := by
  rw [execSb, if_pos hi]
  exact advance_of_room (s := { s with sbr := i }) h

theorem execSb_of_absent {i : BitVec 2} (hi : s.conf.part.nbanks ≤ i.toNat) : execSb i s = .fault .sbBankAbsent := by
  rw [execSb, if_neg (Nat.not_lt.2 hi)]

/-- Settles O46, from where each of the four ends: at a target, at NPC, or Undefined. -/
theorem jumpsAndBank : Obligations.JumpsAndBank := by
  intro s
  simp only [exec_jmp, exec_jpea, exec_bank, exec_sb, ← nbanks_eq]
  exact ⟨fun a => ⟨execJmp_of_room a, execJmp_of_no_room a⟩, jumpInPage_of_room _, jumpInPage_of_no_room _,
    advanceWith_of_room true false, advanceWith_of_no_room true false,
    fun _ => ⟨execSb_of_present, execSb_of_absent⟩⟩

/-! ### Option bytes and pin drive -/

/-- The mask of R9, byte by byte: bytes 1 and 3 use every bit, bytes 5 and 6 none. -/
theorem optionImageLegal_iff (image : Vector Byte 8) :
    optionImageLegal image = true ↔
      image[0] &&& 0xE8 = 0 ∧ image[2] &&& 0x80 = 0 ∧ image[4] &&& 0xF0 = 0 ∧ image[5] = 0 ∧ image[6] = 0 ∧
        image[7] &&& 0xF3 = 0 := by
  have hall : ∀ b : Byte, b &&& 255#8 = b := fun _ => BitVec.and_allOnes
  simp [optionImageLegal, optionUnused, hall]

theorem optionsOfImage_eq_none_iff (image : Vector Byte 8) :
    optionsOfImage image = none ↔ ¬ optionImageLegal image = true := by
  simp [optionsOfImage]

/-- `latchIndex` finds each port that has a latch (R37). -/
theorem latchIndex_of_latchPort {j : Fin 8} {p : Nibble} (h : p.toNat = latchPort j) : latchIndex p = some j := by
  revert j p
  decide

/-- The two transistors of an output pin: the latch bit turns one off, and the option says what then holds it (R251). -/
theorem pinDrive_of_output {j : Fin 8} {p : Nibble} {t : BitVec 2} (hj : latchIndex p = some j)
    (hp : bitOf (outputPins p) t = true) :
    s.pinDrive p t =
      if bitOf s.pl[j] t = false then .low else if bitOf s.conf.options.pullUp[j] t then .high else .floating := by
  simp only [State.pinDrive, hj, hp, if_true]
  cases bitOf s.pl[j] t <;> rfl

/-- Settles O60, from the masks of the option bytes and the latch of each output pin. -/
theorem optionBytesAndPinDrive : Obligations.OptionBytesAndPinDrive := by
  refine ⟨fun image => ?_, fun s j p t hj hp => ?_⟩
  · rw [optionsOfImage_eq_none_iff, optionImageLegal_iff]
  · exact pinDrive_of_output (latchIndex_of_latchPort hj) hp

end Sys2Proof.Machine
end

section
/-! SUPPORT. What an instruction can do: one inversion of `exec`. An instruction that answers a next state first writes
what the spec lists for it (`Wrote`), then ends (`Ended`); the statements over all instructions are read off from that. -/

namespace Sys2Proof.Machine

variable {s t u : State} {i : Instr}

/-! ### The writers of the control state -/

/-- The instructions that write MSE (R231, R280, R281). -/
def writesMaster : Instr → Bool
  | .mset | .mreset | .rti => true
  | _ => false

/-- The instructions that write MODE (R288, R289). -/
def writesMode : Instr → Bool
  | .halt | .hold => true
  | _ => false

/-- The instruction that writes the ROM bank selection (R296). -/
def writesBankSelection : Instr → Bool
  | .sb _ => true
  | _ => false

/-- The instructions that write user flags (R216, R217). -/
def writesUserFlags : Instr → Bool
  | .sfb _ | .rfb _ => true
  | _ => false

/-- The instruction that writes timer 0's reload register (R271). -/
def writesTimer0Reload : Instr → Bool
  | .wttm0 => true
  | _ => false

/-- The instructions that write timer 0's run bit (R275, R277). -/
def writesTimer0Run : Instr → Bool
  | .start0 | .stop0 => true
  | _ => false

/-- The instruction that writes timer 1's reload register A (R272). -/
def writesTimer1Reload : Instr → Bool
  | .wttm1 => true
  | _ => false

/-- The instructions that write timer 1's run bit (R276, R278). -/
def writesTimer1Run : Instr → Bool
  | .start1 | .stop1 => true
  | _ => false

/-- The instruction that writes the serial register (R291). -/
def writesSerial : Instr → Bool
  | .wtsio => true
  | _ => false

/-- The instruction that starts a serial transfer (R290). -/
def startsSerial : Instr → Bool
  | .starts => true
  | _ => false

/-- The instructions that write the enable group EDIH (R282, R284). -/
def writesEnablesHigh : Instr → Bool
  | .eih _ | .dih _ => true
  | _ => false

/-- The instructions that write the enable group EDIL (R283, R285). -/
def writesEnablesLow : Instr → Bool
  | .eil _ | .dil _ => true
  | _ => false

/-- The instruction that sets BNK (R225). -/
def setsBankPrefix : Instr → Bool
  | .bank => true
  | _ => false

/-- The instruction is a port writer executed after BANK: it writes the register bank (R251). -/
def writesRegisterBank (i : Instr) (s : State) : Bool := writesPort i && s.bnk

/-! ### What is written before the instruction ends -/

/-- `s` with the values of `u` in what `i` is listed as writing, and in AC. PC, BNK and VSK are kept: they are
written as the instruction ends. -/
def writtenBy (i : Instr) (s u : State) : State :=
  { ac := u.ac
    e := if writesE i then u.e else s.e
    dph := if writesDph i then u.dph else s.dph
    dpl := if writesDpl i then u.dpl else s.dpl
    dpx := if writesDpx i then u.dpx else s.dpx
    dpy := if writesDpy i then u.dpy else s.dpy
    sp := if writesStackPointer i then u.sp else s.sp
    pc := s.pc
    cf := if writesCarry i then u.cf else s.cf
    zf := if writesZero i then u.zf else s.zf
    uf := if writesUserFlags i then u.uf else s.uf
    mse := if writesMaster i then u.mse else s.mse
    edih := if writesEnablesHigh i || writesRegisterBank i s then u.edih else s.edih
    edil := if writesEnablesLow i || writesRegisterBank i s then u.edil else s.edil
    irq := if writesRegisterBank i s then u.irq else s.irq
    mode := if writesMode i then u.mode else s.mode
    bnk := s.bnk
    vsk := s.vsk
    sbr := if writesBankSelection i then u.sbr else s.sbr
    t0r := if writesTimer0Reload i || writesRegisterBank i s then u.t0r else s.t0r
    t0c := if writesRegisterBank i s then u.t0c else s.t0c
    t0run := if writesTimer0Run i || writesRegisterBank i s then u.t0run else s.t0run
    t1ra := if writesTimer1Reload i || writesRegisterBank i s then u.t1ra else s.t1ra
    t1rb := if writesRegisterBank i s then u.t1rb else s.t1rb
    t1c := if writesRegisterBank i s then u.t1c else s.t1c
    t1run := if writesTimer1Run i || writesRegisterBank i s then u.t1run else s.t1run
    prescaler := s.prescaler
    sio := if writesSerial i || writesRegisterBank i s then u.sio else s.sio
    sio2 := if writesRegisterBank i s then u.sio2 else s.sio2
    siorun := if startsSerial i || writesRegisterBank i s then u.siorun else s.siorun
    pl := if writesPort i then u.pl else s.pl
    inputModes := if writesRegisterBank i s then u.inputModes else s.inputModes
    cr := if writesRegisterBank i s then u.cr else s.cr
    ram := if storesToRam i then u.ram else s.ram
    rom := s.rom
    conf := s.conf
    env := s.env
    draws := if drawsFreeValue i then u.draws else s.draws }

/-- `u` is `s` after the writes of `i`: only what is listed for `i` has changed, RAM is still in canonical form, and no
request bit has been set (R310). -/
structure Wrote (i : Instr) (s u : State) : Prop where
  listed : u = writtenBy i s u
  ramWf : s.ram.ramWf = true → u.ram.ramWf = true
  noRequest : ∀ k : Fin 8, u.irq.getLsbD k.val = true → s.irq.getLsbD k.val = true

namespace Wrote

/-- Writes that reach neither RAM nor the requests. -/
theorem of_registers (h : u = writtenBy i s u) (hram : u.ram = s.ram) (hirq : u.irq = s.irq) : Wrote i s u :=
  ⟨h, fun hw => hram ▸ hw, fun _ hk => hirq ▸ hk⟩

/-- Writes to RAM that keep its canonical form. -/
theorem of_store (h : u = writtenBy i s u) (hram : s.ram.ramWf = true → u.ram.ramWf = true) (hirq : u.irq = s.irq) :
    Wrote i s u :=
  ⟨h, hram, fun _ hk => hirq ▸ hk⟩

theorem pc (h : Wrote i s u) : u.pc = s.pc := by rw [h.listed]; rfl

theorem conf (h : Wrote i s u) : u.conf = s.conf := by rw [h.listed]; rfl

theorem npc (h : Wrote i s u) (len : Nat) : u.npc len = s.npc len := by simp only [State.npc, h.pc]

theorem npcUsable (h : Wrote i s u) (len : Nat) : u.npcUsable len = s.npcUsable len := by
  simp only [State.npcUsable, h.npc, h.pc, h.conf]

theorem npcInPage (h : Wrote i s u) (len : Nat) : u.npcInPage len = s.npcInPage len := by
  simp only [State.npcInPage, h.npc, h.pc]

end Wrote

/-! ### Port operations -/

/-- Reading a port changes at most the counter of free values. -/
theorem withPort_next {p : Nibble} {k : Nibble → State → Outcome} (h : withPort s p k = .next t) :
    ∃ v d, k v { s with draws := d } = .next t := by
  obtain ⟨-, h⟩ | ⟨-, v, -, h⟩ := (withPort_next_iff p k).1 h
  · exact ⟨_, _, h⟩
  · exact ⟨v, s.draws, h⟩

/-- So does reading the old value of a port. -/
theorem withPortOld_next {p : Nibble} {k : Nibble → State → Outcome} (h : withPortOld s p k = .next t) :
    ∃ v d, k v { s with draws := d } = .next t := by
  obtain ⟨-, -, j, -, h⟩ | ⟨-, -, h⟩ | ⟨-, v, -, h⟩ := (withPortOld_next_iff p k).1 h
  · exact ⟨_, s.draws, h⟩
  · exact ⟨_, _, h⟩
  · exact ⟨v, s.draws, h⟩

theorem getLsbD_setBitTo {w : Nat} (x : BitVec w) (k j : Nat) (v : Bool) (hj : j < w) :
    (setBitTo x k v).getLsbD j = if j = k then v else x.getLsbD j := by
  cases v <;> by_cases hjk : j = k <;> simp [setBitTo, hjk, hj] <;> omega

/-- Storing a bit of an internal control register sets no request (R310). -/
theorem crBitStore_noRequest (n : Nibble) (b : Fin 4) (v : Bool) (c : CrBit) (k : Fin 8)
    (h : (crBitStore s n b v c).irq.getLsbD k.val = true) : s.irq.getLsbD k.val = true := by
  cases c
  case irq j =>
    simp only [crBitStore, getLsbD_setBitTo _ _ _ _ k.isLt] at h
    split at h
    · next hkj => simp_all
    · exact h
  all_goals exact h

theorem crWrite_noRequest {n v : Nibble} (h : s.crWrite n v = some u) (k : Fin 8)
    (hk : u.irq.getLsbD k.val = true) : s.irq.getLsbD k.val = true := by
  unfold State.crWrite at h
  split at h
  · split at h
    · injection h with h
      subst h
      exact crBitStore_noRequest _ _ _ _ _ (crBitStore_noRequest _ _ _ _ _
        (crBitStore_noRequest _ _ _ _ _ (crBitStore_noRequest _ _ _ _ _ hk)))
    · exact absurd h (by simp)
  · exact absurd h (by simp)

/-- What a port write leaves: one latch written, or after BANK what the register bank can stand for (R44, R251). -/
inductive PortWritten (s : State) : State → Prop where
  | latches (p : Vector Nibble 8) (hb : s.bnk = false) : PortWritten s { s with pl := p }
  | registerBank (w : State) (hb : s.bnk = true)
      (hirq : ∀ k : Fin 8, w.irq.getLsbD k.val = true → s.irq.getLsbD k.val = true) : PortWritten s (crOnly s w)

theorem PortWritten.trans (h : PortWritten s t) (h' : PortWritten t u) : PortWritten s u := by
  cases h with
  | latches p hb =>
    cases h' with
    | latches q => exact .latches q hb
    | registerBank w hb' => exact absurd (hb'.symm.trans hb) (by decide)
  | registerBank w hb hirq =>
    cases h' with
    | latches q hb' => exact absurd (hb'.symm.trans hb) (by decide)
    | registerBank w' _ hirq' => exact .registerBank w' hb fun k hk => hirq k (hirq' k hk)

theorem PortWritten.zf (h : PortWritten s u) : u.zf = s.zf := by cases h <;> rfl

theorem portWrite_next {p v : Nibble} {k : State → Outcome} (h : portWrite s p v k = .next t) :
    ∃ u, PortWritten s u ∧ k u = .next t := by
  obtain ⟨hb, j, -, h⟩ | ⟨hb, u, hu, h⟩ := (portWrite_next_iff p v k).1 h
  · exact ⟨_, .latches _ hb, h⟩
  · refine ⟨u, ?_, h⟩
    rw [crWrite_changes hu]
    exact .registerBank u hb (crWrite_noRequest hu)

/-- The writes of a port writer: the port, the counter where it reads one, and ZF where it is listed for ZF. -/
theorem Wrote.of_port {d : Nat} {z : Bool} (hp : PortWritten { s with draws := d } u) (hi : writesPort i = true)
    (hd : drawsFreeValue i = false → d = s.draws) (hz : writesZero i = false → z = s.zf) :
    Wrote i s { u with zf := z } := by
  have hd' : (if drawsFreeValue i then d else s.draws) = d := by split <;> simp_all
  have hz' : (if writesZero i then z else s.zf) = z := by split <;> simp_all
  cases hp with
  | latches p hb => exact of_registers (by simp [writtenBy, hi, hd', hz']) rfl rfl
  | registerBank w hb hirq =>
    refine ⟨?_, id, hirq⟩
    have hb' : writesRegisterBank i s = true := by simpa [writesRegisterBank, hi] using hb
    simp [writtenBy, crOnly, hi, hb', hd', hz']

end Sys2Proof.Machine
end

section
/-! SUPPORT. How an instruction ends, and the inversion of `exec` over all instructions. -/

namespace Sys2Proof.Machine

variable {s t u : State} {i : Instr}

/-! ### How an instruction ends -/

/-- `t` is `u` with PC, BNK and VSK written by the end of `i`, which began in `s`: BNK and VSK as R112 says;
except for the returns NPC has room in the bank and the ROM (R27, R354); and only the calls, the returns and a JMP
after BANK can change PC12. -/
structure Ended (i : Instr) (s u t : State) : Prop where
  retired : t = u.retire t.pc (setsBankPrefix i) (skipsVertically i && s.conf.vskip)
  room : usesNoNextAddress i = false → s.pc.toNat < s.conf.part.romSize → s.RoomForNpc i.size
  bank : leavesBank i = false → (∀ a, i = .jmp a → s.bnk = false) → t.pc.getLsbD 12 = s.pc.getLsbD 12

/-- `i`, executed in `s`, leaves `t`: it writes what is listed for it and ends. -/
def Executed (i : Instr) (s t : State) : Prop := ∃ u, Wrote i s u ∧ Ended i s u t

theorem size_le_two (i : Instr) : i.size ≤ 2 := by
  unfold Instr.size
  split <;> decide

theorem roomForNpc_of_usable (h : s.npcUsable i.size = true) : s.RoomForNpc i.size :=
  (npcUsable_iff (Nat.lt_of_le_of_lt (size_le_two i) (by decide))).1 h

theorem npc_bank_of_usable {len : Nat} (h : s.npcUsable len = true) :
    (s.npc len).getLsbD 12 = s.pc.getLsbD 12 := by
  simp only [State.npcUsable, Bool.and_eq_true, beq_iff_eq] at h
  exact h.1

/-- Every part's ROM ends with a page, so NPC in the page is NPC in the ROM. -/
theorem roomForNpc_of_inPage (h : s.npcInPage i.size = true) (hr : s.pc.toNat < s.conf.part.romSize) :
    s.RoomForNpc i.size := by
  have hs := size_le_two i
  have hp := (npcInPage_iff (by omega)).1 h
  unfold State.RoomInPage at hp
  unfold State.RoomForNpc
  cases hc : s.conf.part <;> simp only [hc, Part.romSize] at hr ⊢ <;> omega

theorem inPage_bank {len : Nat} (low : Byte) (h : s.npcInPage len = true) :
    (s.inPage len low).getLsbD 12 = s.pc.getLsbD 12 := by
  simp only [State.npcInPage, beq_iff_eq] at h
  simp only [State.inPage, h, BitVec.getLsbD_append, BitVec.getLsbD_extractLsb']
  rfl

/-- An instruction that writes no PC, with the BNK and VSK it leaves. -/
theorem executed_of_advanceWith {b v : Bool} (h : advanceWith i.size b v u = .next t) (hw : Wrote i s u)
    (hb : setsBankPrefix i = b) (hv : (skipsVertically i && s.conf.vskip) = v) : Executed i s t := by
  obtain ⟨husable, rfl⟩ := (advanceWith_next_iff _ _ _).1 h
  rw [hw.npcUsable] at husable
  exact ⟨u, hw, by rw [hb, hv]; rfl, fun _ _ => roomForNpc_of_usable husable,
    fun _ _ => (congrArg (·.getLsbD 12) (hw.npc _)).trans (npc_bank_of_usable husable)⟩

/-- An instruction that writes no PC and is neither BANK nor LAI. -/
theorem executed_of_advance (h : advance i.size u = .next t) (hw : Wrote i s u)
    (hb : setsBankPrefix i = false) (hv : skipsVertically i = false) : Executed i s t :=
  executed_of_advanceWith h hw hb (by rw [hv]; rfl)

/-- LAI and CLA, whether they load or skip. -/
theorem executed_of_loadImmediate {n : Nibble} (h : loadImmediateSkipping n s = .next t) (hsize : i.size = 1)
    (hz : writesZero i = true) (hb : setsBankPrefix i = false) (hv : skipsVertically i = true) : Executed i s t := by
  unfold loadImmediateSkipping at h
  rw [← hsize] at h
  refine executed_of_advanceWith h ?_ hb (by rw [hv]; rfl)
  split
  · exact .of_registers (by simp [writtenBy]) rfl rfl
  · exact .of_registers (by simp [writtenBy, hz, State.setAcZ]) rfl rfl

theorem executed_of_jumpInPage {low : Byte} (h : jumpInPage i.size low u = .next t) (hw : Wrote i s u)
    (hb : setsBankPrefix i = false) (hv : skipsVertically i = false) : Executed i s t := by
  obtain ⟨hpage, rfl⟩ := (jumpInPage_next_iff _ _).1 h
  have hs := hw.npcInPage i.size ▸ hpage
  refine ⟨u, hw, by rw [hb, hv]; rfl, fun _ => roomForNpc_of_inPage hs, fun _ _ => ?_⟩
  exact (inPage_bank low hpage).trans (congrArg (·.getLsbD 12) hw.pc)

theorem executed_of_branch {cond : Bool} {low : Byte} (h : branch cond low u = .next t) (hw : Wrote i s u)
    (hsize : i.size = 2) (hb : setsBankPrefix i = false) (hv : skipsVertically i = false) : Executed i s t := by
  cases cond
  · exact executed_of_advance (by rw [hsize]; exact h) hw hb hv
  · exact executed_of_jumpInPage (by rw [hsize]; exact h) hw hb hv

/-- A call: it stores a frame and lowers SP, and NPC must be usable. -/
theorem executed_of_call {target : RomAddr} (h : call i.size target s = .next t) (hram : storesToRam i = true)
    (hsp : writesStackPointer i = true) (hl : leavesBank i = true) (hb : setsBankPrefix i = false)
    (hv : skipsVertically i = false) : Executed i s t := by
  obtain ⟨husable, rfl⟩ := (call_next_iff _ _).1 h
  refine ⟨_, .of_store ?_ (pushFrame_ramWf _) rfl, by rw [hb, hv]; rfl, fun _ _ => roomForNpc_of_usable husable,
    fun hn => absurd (hl.symm.trans hn) (by decide)⟩
  rw [pushFrame_eq]
  simp [writtenBy, hram, hsp]

/-- A return goes to the PC of the frame it pops, whatever bank that is in. -/
theorem executed_of_return {target : RomAddr} (h : u.retire target false false = t) (hw : Wrote i s u)
    (hn : usesNoNextAddress i = true) (hl : leavesBank i = true) (hb : setsBankPrefix i = false)
    (hv : skipsVertically i = false) : Executed i s t := by
  subst h
  exact ⟨u, hw, by rw [hb, hv]; rfl, fun hn' => absurd (hn.symm.trans hn') (by decide),
    fun hl' => absurd (hl.symm.trans hl') (by decide)⟩

theorem getLsbD_bank_append (b : Bool) (a : BitVec 12) : (BitVec.ofBool b ++ a : RomAddr).getLsbD 12 = b := by
  rw [BitVec.getLsbD_append]
  cases b <;> rfl

theorem executed_jmp {a : BitVec 12} (h : execJmp a s = .next t) : Executed (.jmp a) s t := by
  obtain ⟨husable, rfl⟩ := (execJmp_next_iff a).1 h
  refine ⟨s, .of_registers rfl rfl rfl, rfl, fun _ _ => roomForNpc_of_usable (i := .jmp a) husable, fun _ hj => ?_⟩
  simp only [State.retire, getLsbD_bank_append, hj a rfl, Bool.xor_false]

/-! ### The port instructions by their operations -/

theorem exec_ip0 : exec .ip0 s = inputToAc 1 0 s := rfl

theorem exec_ip : exec .ip s = inputToAc 1 s.dpl s := rfl

theorem exec_ipdr (n : Nibble) : exec (.ipdr n) s = inputToAc 2 n s := rfl

theorem exec_ipm :
    exec .ipm s = withPort s s.dpl fun v s1 => withAddr s1 s1.hl fun a => advance 1 (s1.writeRam a v) := rfl

theorem exec_ip45 :
    exec .ip45 s = withPort s 4 fun v s1 => withPort s1 5 fun w s2 => advance 2 { s2 with e := v, ac := w } := rfl

theorem exec_op : exec .op s = portWrite s s.dpl s.ac fun s1 => advance 1 s1 := rfl

theorem exec_opdr (n : Nibble) : exec (.opdr n) s = portWrite s n s.ac fun s1 => advance 2 s1 := rfl

theorem exec_opm :
    exec .opm s = withWord s s.hl fun _ m => portWrite s s.dpl m fun s1 => advance 1 s1 := rfl

theorem exec_op45 :
    exec .op45 s = portWrite s 4 s.e fun s1 => portWrite s1 5 s.ac fun s2 => advance 2 s2 := rfl

theorem exec_spb (b : BitVec 2) :
    exec (.spb b) s =
      withPortOld s s.dpl fun old s1 => portWrite s1 s.dpl (setBit old b) fun s2 => advance 1 s2 := rfl

theorem exec_rtblp :
    exec .rtblp s = withTableByte s fun b =>
      portWrite s 4 (hiNibble b) fun s1 => portWrite s1 5 (loNibble b) fun s2 => advance 1 s2 := rfl

theorem exec_bp (b : BitVec 2) (p : Byte) :
    exec (.bp b p) s = withPort s s.dpl fun v s1 => branch (bitOf v b) p s1 := rfl

theorem exec_bnp (b : BitVec 2) (p : Byte) :
    exec (.bnp b p) s = withPort s s.dpl fun v s1 => branch (!bitOf v b) p s1 := rfl

/-! ### The inversion of `exec` -/

/-- Everything an instruction can do when it answers a next state. The cases are grouped by the operations the
instruction is made of: the word or port it reads, then its writes, then its end. -/
theorem exec_next (h : exec i s = .next t) : Executed i s t := by
  cases i
  case cla | lai => exact executed_of_loadImmediate h rfl rfl rfl rfl
  case bank => exact executed_of_advanceWith (i := .bank) h (.of_registers rfl rfl rfl) rfl rfl
  -- registers and flags from registers and immediates
  case daa | das | clc | stc | cma | ia | da | rar | ral | tae | tea | xae | adi | ci | cli | leai | ldz | lhi | lli |
      lhli | lxyi | il | dl | iy | dy | tah | tha | xah | tal | tla | xal | tax | txa | xax | tay | tya | xay | sfb |
      rfb | wttm1 | rtim1 | start0 | start1 | stop0 | stop1 | mset | mreset | eih | eil | dih | dil | wtsp | rsp | halt |
      hold | starts | wtsio | rsio | nop =>
    exact executed_of_advance h (.of_registers rfl rfl rfl) rfl rfl
  case sb =>
    obtain ⟨-, h⟩ | ⟨-, h⟩ := ite_eq_iff.1 h
    · exact executed_of_advance h (.of_registers rfl rfl rfl) rfl rfl
    · cases h
  -- a word of data memory into registers and flags
  case ad | addr | adc | subc | anda | ora | exl | cm | cmb | ladr | la =>
    obtain ⟨_, _, -, -, h⟩ := (withWord_next_iff _ _).1 h
    exact executed_of_advance h (.of_registers rfl rfl rfl) rfl rfl
  case laI r | laD r =>
    obtain ⟨_, _, -, -, h⟩ := (withWord_next_iff _ _).1 h
    cases r <;> exact executed_of_advance h (.of_registers rfl rfl rfl) rfl rfl
  -- a word of data memory written back or exchanged
  case im | dm | imdr | dmdr | smb | rmb | andm | orm | xa | xadr =>
    obtain ⟨_, _, -, -, h⟩ := (withWord_next_iff _ _).1 h
    exact executed_of_advance h (.of_store rfl (ramWrite_ramWf _ _ _) rfl) rfl rfl
  case xaI r | xaD r =>
    obtain ⟨_, _, -, -, h⟩ := (withWord_next_iff _ _).1 h
    cases r <;> exact executed_of_advance h (.of_store rfl (ramWrite_ramWf _ _ _) rfl) rfl rfl
  case s =>
    obtain ⟨_, -, h⟩ := (withAddr_next_iff _ _).1 h
    exact executed_of_advance h (.of_store rfl (ramWrite_ramWf _ _ _) rfl) rfl rfl
  -- the two words of M2(HL)
  case lae | wttm0 =>
    obtain ⟨-, _, _, -, -, h⟩ := (withAddr2_next_iff _).1 h
    obtain ⟨_, -, h⟩ := (withRam_next_iff _ _).1 h
    obtain ⟨_, -, h⟩ := (withRam_next_iff _ _).1 h
    exact executed_of_advance h (.of_registers rfl rfl rfl) rfl rfl
  case sae | rtim0 =>
    obtain ⟨-, _, _, -, -, h⟩ := (withAddr2_next_iff _).1 h
    exact executed_of_advance h
      (.of_store rfl (fun hw => ramWrite_ramWf _ _ _ (ramWrite_ramWf _ _ _ hw)) rfl) rfl rfl
  -- the table
  case rtbl =>
    obtain ⟨-, _, -, h⟩ := (withTableByte_next_iff _).1 h
    exact executed_of_advance h (.of_registers rfl rfl rfl) rfl rfl
  case rtblp =>
    obtain ⟨-, _, -, h⟩ := (withTableByte_next_iff _).1 h
    obtain ⟨_, hp, h⟩ := portWrite_next h
    obtain ⟨_, hp', h⟩ := portWrite_next h
    exact executed_of_advance h (.of_port (hp.trans hp') rfl (fun _ => rfl) fun _ => (hp.trans hp').zf) rfl rfl
  -- jumps, calls and returns
  case jmp => exact executed_jmp h
  case jpea => exact executed_of_jumpInPage h (.of_registers rfl rfl rfl) rfl rfl
  case cal | czp => exact executed_of_call h rfl rfl rfl rfl rfl
  case rt =>
    obtain ⟨_, -, h⟩ := returnPlain_next_iff.1 h
    exact executed_of_return h (.of_registers rfl rfl rfl) rfl rfl rfl rfl
  case rti =>
    obtain ⟨_, -, h⟩ := returnFromInterrupt_next_iff.1 h
    exact executed_of_return h (.of_registers rfl rfl rfl) rfl rfl rfl rfl
  -- the stack
  case push =>
    exact executed_of_advance h
      (.of_store rfl (fun hw => ramWrite_ramWf _ _ _ (ramWrite_ramWf _ _ _ hw)) rfl) rfl rfl
  case pop r =>
    obtain ⟨_, -, h⟩ := (withRam_next_iff _ _).1 h
    obtain ⟨_, -, h⟩ := (withRam_next_iff _ _).1 h
    cases r <;> exact executed_of_advance h (.of_registers rfl rfl rfl) rfl rfl
  -- branches
  case ba | bna | bc | bnc | bz | bnz | bf | bnf =>
    exact executed_of_branch h (.of_registers rfl rfl rfl) rfl rfl rfl
  case bm | bnm =>
    obtain ⟨_, _, -, -, h⟩ := (withWord_next_iff _ _).1 h
    exact executed_of_branch h (.of_registers rfl rfl rfl) rfl rfl rfl
  case bp | bnp =>
    simp only [exec_bp, exec_bnp] at h
    obtain ⟨_, _, h⟩ := withPort_next h
    exact executed_of_branch h (.of_registers rfl rfl rfl) rfl rfl rfl
  -- port inputs
  case ip0 | ip | ipdr =>
    simp only [exec_ip0, exec_ip, exec_ipdr, inputToAc] at h
    obtain ⟨_, _, h⟩ := withPort_next h
    exact executed_of_advance h (.of_registers rfl rfl rfl) rfl rfl
  case ipm =>
    rw [exec_ipm] at h
    obtain ⟨_, _, h⟩ := withPort_next h
    obtain ⟨_, -, h⟩ := (withAddr_next_iff _ _).1 h
    exact executed_of_advance h (.of_store rfl (ramWrite_ramWf _ _ _) rfl) rfl rfl
  case ip45 =>
    rw [exec_ip45] at h
    obtain ⟨_, _, h⟩ := withPort_next h
    obtain ⟨_, _, h⟩ := withPort_next h
    exact executed_of_advance h (.of_registers rfl rfl rfl) rfl rfl
  -- port outputs and read-modify-writes
  case op | opdr =>
    obtain ⟨_, hp, h⟩ := portWrite_next h
    exact executed_of_advance h (.of_port hp rfl (fun _ => rfl) fun _ => hp.zf) rfl rfl
  case op45 =>
    rw [exec_op45] at h
    obtain ⟨_, hp, h⟩ := portWrite_next h
    obtain ⟨_, hp', h⟩ := portWrite_next h
    exact executed_of_advance h (.of_port (hp.trans hp') rfl (fun _ => rfl) fun _ => (hp.trans hp').zf) rfl rfl
  case opm =>
    obtain ⟨_, _, -, -, h⟩ := (withWord_next_iff _ _).1 h
    obtain ⟨_, hp, h⟩ := portWrite_next h
    exact executed_of_advance h (.of_port hp rfl (fun _ => rfl) fun _ => hp.zf) rfl rfl
  case spb =>
    obtain ⟨_, _, h⟩ := withPortOld_next h
    obtain ⟨_, hp, h⟩ := portWrite_next h
    exact executed_of_advance h (.of_port hp rfl nofun fun _ => hp.zf) rfl rfl
  case rpb | andpdr | orpdr =>
    obtain ⟨_, _, h⟩ := withPortOld_next h
    obtain ⟨_, hp, h⟩ := portWrite_next h
    exact executed_of_advance h (.of_port hp rfl nofun nofun) rfl rfl

end Sys2Proof.Machine
end

section
/-! SUPPORT. The statements over all instructions: the writers of each part of the state, and the ends of a bank. -/

namespace Sys2Proof.Machine

variable {s t : State} {i : Instr}

/-- After an instruction only what is listed for it has changed, but for PC, BNK and VSK. -/
theorem exec_listed (h : exec i s = .next t) :
    t = (writtenBy i s t).retire t.pc (setsBankPrefix i) (skipsVertically i && s.conf.vskip) := by
  obtain ⟨u, hw, he⟩ := exec_next h
  have hu : writtenBy i s t = u := by
    rw [he.retired]
    exact hw.listed.symm
  rw [hu]
  exact he.retired

theorem exec_rom (h : exec i s = .next t) : t.rom = s.rom := (congrArg State.rom (exec_listed h) :)

theorem exec_conf (h : exec i s = .next t) : t.conf = s.conf := (congrArg State.conf (exec_listed h) :)

/-- A field that is not listed keeps its value. -/
theorem kept_of_not_listed {α : Type} {listed : Bool} {new old : α} (h : new = if listed then new else old)
    (hl : listed = false) : new = old := by
  rwa [hl, if_neg (by decide)] at h

/-- The same for a field that the register bank reaches too. -/
theorem kept_of_neither_listed {α : Type} {listed bank : Bool} {new old : α}
    (h : new = if listed || bank then new else old) (hl : listed = false) (hb : bank = false) : new = old :=
  kept_of_not_listed h (by rw [hl, hb]; rfl)

/-! ### Which lists an instruction is outside of -/

theorem writesUserFlags_eq_false (h : ∀ n, i ≠ .sfb n ∧ i ≠ .rfb n) : writesUserFlags i = false := by
  unfold writesUserFlags
  split <;> simp_all

theorem writesMaster_eq_false (h : i ≠ .mset) (h' : i ≠ .mreset) (h'' : i ≠ .rti) : writesMaster i = false := by
  unfold writesMaster
  split <;> simp_all

theorem writesMode_eq_false (h : i ≠ .halt) (h' : i ≠ .hold) : writesMode i = false := by
  unfold writesMode
  split <;> simp_all

theorem writesBankSelection_eq_false (h : ∀ n, i ≠ .sb n) : writesBankSelection i = false := by
  unfold writesBankSelection
  split <;> simp_all

theorem writesTimer0Reload_eq_false (h : i ≠ .wttm0) : writesTimer0Reload i = false := by
  unfold writesTimer0Reload
  split <;> simp_all

theorem writesTimer0Run_eq_false (h : i ≠ .start0) (h' : i ≠ .stop0) : writesTimer0Run i = false := by
  unfold writesTimer0Run
  split <;> simp_all

theorem writesTimer1Reload_eq_false (h : i ≠ .wttm1) : writesTimer1Reload i = false := by
  unfold writesTimer1Reload
  split <;> simp_all

theorem writesTimer1Run_eq_false (h : i ≠ .start1) (h' : i ≠ .stop1) : writesTimer1Run i = false := by
  unfold writesTimer1Run
  split <;> simp_all

theorem writesSerial_eq_false (h : i ≠ .wtsio) : writesSerial i = false := by
  unfold writesSerial
  split <;> simp_all

theorem startsSerial_eq_false (h : i ≠ .starts) : startsSerial i = false := by
  unfold startsSerial
  split <;> simp_all

theorem writesEnablesHigh_eq_false (h : ∀ n, i ≠ .eih n ∧ i ≠ .dih n) : writesEnablesHigh i = false := by
  unfold writesEnablesHigh
  split <;> simp_all

theorem writesEnablesLow_eq_false (h : ∀ n, i ≠ .eil n ∧ i ≠ .dil n) : writesEnablesLow i = false := by
  unfold writesEnablesLow
  split <;> simp_all

theorem writesRegisterBank_eq_false (h : s.bnk = false ∨ writesPort i = false) : writesRegisterBank i s = false := by
  obtain h | h := h <;> simp [writesRegisterBank, h]

/-! ### The statements -/

/-- Settles O19: CF is outside what `exec_listed` lets an instruction outside R28's list write. -/
theorem onlyListedInstructionsWriteCarry : Obligations.OnlyListedInstructionsWriteCarry :=
  fun _ _ _ h => kept_of_not_listed (congrArg State.cf (exec_listed h))

/-- Settles O20, in the same way for ZF. -/
theorem onlyListedInstructionsWriteZero : Obligations.OnlyListedInstructionsWriteZero :=
  fun _ _ _ h => kept_of_not_listed (congrArg State.zf (exec_listed h))

/-- Settles O21, register by register. -/
theorem onlyListedInstructionsWriteRegisters : Obligations.OnlyListedInstructionsWriteRegisters := by
  intro i s t h
  have hl := exec_listed h
  exact ⟨kept_of_not_listed (congrArg State.e hl), kept_of_not_listed (congrArg State.dph hl),
    kept_of_not_listed (congrArg State.dpl hl), kept_of_not_listed (congrArg State.dpx hl),
    kept_of_not_listed (congrArg State.dpy hl), kept_of_not_listed (congrArg State.sp hl),
    fun hn => kept_of_not_listed (congrArg State.uf hl) (writesUserFlags_eq_false hn)⟩

/-- What the register bank reaches is kept without a port write after BANK, unless the instruction is named for it. -/
theorem exec_keeps_registerBank (h : exec i s = .next t) (hb : writesRegisterBank i s = false) :
    t.cr = s.cr ∧ t.irq = s.irq ∧ t.t1rb = s.t1rb ∧ t.sio2 = s.sio2 ∧ t.inputModes = s.inputModes ∧
      t.t0c = s.t0c ∧ t.t1c = s.t1c ∧
      (i ≠ .wttm0 → t.t0r = s.t0r) ∧ (i ≠ .start0 → i ≠ .stop0 → t.t0run = s.t0run) ∧
      (i ≠ .wttm1 → t.t1ra = s.t1ra) ∧ (i ≠ .start1 → i ≠ .stop1 → t.t1run = s.t1run) ∧
      (i ≠ .wtsio → t.sio = s.sio) ∧ (i ≠ .starts → t.siorun = s.siorun) ∧
      ((∀ n, i ≠ .eih n ∧ i ≠ .dih n) → t.edih = s.edih) ∧ ((∀ n, i ≠ .eil n ∧ i ≠ .dil n) → t.edil = s.edil) := by
  have hl := exec_listed h
  exact ⟨kept_of_not_listed (congrArg State.cr hl) hb, kept_of_not_listed (congrArg State.irq hl) hb,
    kept_of_not_listed (congrArg State.t1rb hl) hb, kept_of_not_listed (congrArg State.sio2 hl) hb,
    kept_of_not_listed (congrArg State.inputModes hl) hb, kept_of_not_listed (congrArg State.t0c hl) hb,
    kept_of_not_listed (congrArg State.t1c hl) hb,
    fun hi => kept_of_neither_listed (congrArg State.t0r hl) (writesTimer0Reload_eq_false hi) hb,
    fun hi hi' => kept_of_neither_listed (congrArg State.t0run hl) (writesTimer0Run_eq_false hi hi') hb,
    fun hi => kept_of_neither_listed (congrArg State.t1ra hl) (writesTimer1Reload_eq_false hi) hb,
    fun hi hi' => kept_of_neither_listed (congrArg State.t1run hl) (writesTimer1Run_eq_false hi hi') hb,
    fun hi => kept_of_neither_listed (congrArg State.sio hl) (writesSerial_eq_false hi) hb,
    fun hi => kept_of_neither_listed (congrArg State.siorun hl) (startsSerial_eq_false hi) hb,
    fun hi => kept_of_neither_listed (congrArg State.edih hl) (writesEnablesHigh_eq_false hi) hb,
    fun hi => kept_of_neither_listed (congrArg State.edil hl) (writesEnablesLow_eq_false hi) hb⟩

/-- No instruction sets a request bit (R310). -/
theorem exec_noRequest (h : exec i s = .next t) (k : Fin 8) (hk : t.irq.getLsbD k.val = true) :
    s.irq.getLsbD k.val = true := by
  obtain ⟨u, hw, he⟩ := exec_next h
  rw [he.retired] at hk
  exact hw.noRequest k hk

/-- Settles O22: each part of the control state is outside what `exec_listed` lets the other instructions write. -/
theorem onlyListedInstructionsWriteControlState : Obligations.OnlyListedInstructionsWriteControlState := by
  intro i s t h
  have hl := exec_listed h
  exact ⟨fun hi hi' hi'' => kept_of_not_listed (congrArg State.mse hl) (writesMaster_eq_false hi hi' hi''),
    fun hi hi' => kept_of_not_listed (congrArg State.mode hl) (writesMode_eq_false hi hi'),
    fun hi => kept_of_not_listed (congrArg State.sbr hl) (writesBankSelection_eq_false hi),
    exec_rom h, exec_conf h, (congrArg State.env hl :), (congrArg State.prescaler hl :),
    kept_of_not_listed (congrArg State.draws hl), exec_noRequest h, kept_of_not_listed (congrArg State.pl hl),
    fun hb => exec_keeps_registerBank h (writesRegisterBank_eq_false hb)⟩

/-- Settles O25, from how an instruction ends. -/
theorem bankEnds : Obligations.BankEnds := by
  intro i s t h
  obtain ⟨u, -, he⟩ := exec_next h
  exact ⟨he.room, he.bank⟩

end Sys2Proof.Machine
end

section
/-! SUPPORT. The invariant: it holds at reset, what happens at a boundary keeps it, every instruction keeps it. -/

namespace Sys2Proof.Machine

variable {s t : State} {i : Instr}

/-! ### Reset -/

theorem nbanks_pos (p : Part) : 0 < p.nbanks := by
  cases p <;> decide

theorem resetOf_inv (c : Conf) : (State.resetOf c).Inv :=
  ⟨(resetOf_memories_wf c).1, (resetOf_memories_wf c).2, nbanks_pos c.part, rfl, nofun, fun h => absurd rfl h⟩

/-- Settles O10. -/
theorem resetHasInvariant : Obligations.ResetHasInvariant := ⟨resetOf_inv chip, resetOf_inv⟩

/-- Settles O11: the fields of `State.resetOf`; the latches by the options, and no cell of RAM listed. -/
theorem resetValues : Obligations.ResetValues := by
  intro c
  have hp3 : (State.resetOf c).pl[3] = 0xF := rfl
  have hp7 : (State.resetOf c).pl[7] = 0xF := rfl
  rw [hp3, hp7]
  exact ⟨rfl, rfl, rfl, rfl, by decide, rfl, rfl, rfl, by decide, rfl, rfl, rfl, rfl, rfl, rfl, rfl, fun _ => rfl, rfl⟩

/-- A reset keeps the mask ROM and the parameters, and everything else is as `State.resetOf` leaves it. -/
theorem afterReset_inv (h : s.Inv) : s.afterReset.Inv := by
  obtain ⟨hram, -, hsb, hprefix, hvsk, hmode⟩ := resetOf_inv s.conf
  obtain ⟨-, hrom, -⟩ := h
  exact ⟨hram, hrom, hsb, hprefix, hvsk, hmode⟩

/-! ### The boundary -/

/-- The invariant speaks of RAM, ROM, the parameters, SB's bank, BNK, VSK and the mode only. -/
theorem inv_of_same (h : s.Inv) (hram : t.ram = s.ram) (hrom : t.rom = s.rom) (hconf : t.conf = s.conf)
    (hsbr : t.sbr = s.sbr) (hbnk : t.bnk = s.bnk) (hvsk : t.vsk = s.vsk) (hmode : t.mode = .run ∨ t.mode = s.mode) :
    t.Inv := by
  obtain ⟨iram, irom, isbr, iprefix, ivsk, imode⟩ := h
  refine ⟨hram ▸ iram, ?_, ?_, ?_, ?_, fun hm => ?_⟩
  · rwa [hrom, hconf]
  · rwa [hsbr, hconf]
  · rwa [hbnk, hvsk]
  · rwa [hvsk, hconf]
  · rw [hbnk, hvsk]
    exact imode fun hr => hm (hmode.elim id fun he => he.trans hr)

theorem atBoundary_inv (h : s.Inv) : s.atBoundary.Inv := inv_of_same h rfl rfl rfl rfl rfl rfl (.inr rfl)

/-- Taking an interrupt stores a frame: the canonical form of RAM is kept, and so is all else the invariant names. -/
theorem takeInterrupt_inv (k : Fin 8) (h : s.Inv) : (s.takeInterrupt k).Inv := by
  obtain ⟨hram, hrest⟩ := h
  exact ⟨pushFrame_ramWf _ hram, hrest⟩

theorem holdStep_inv (h : s.Inv) (hs : holdStep s = .next t) : t.Inv ∧ t.rom = s.rom ∧ t.conf = s.conf := by
  simp only [holdStep, Host.Outcome.next.injEq] at hs
  subst hs
  split
  · exact ⟨inv_of_same h rfl rfl rfl rfl rfl rfl (.inl rfl), rfl, rfl⟩
  · exact ⟨inv_of_same h rfl rfl rfl rfl rfl rfl (.inr rfl), rfl, rfl⟩

theorem haltStep_inv {release : Bool} (h : s.Inv) (hs : haltStep release s = .next t) :
    t.Inv ∧ t.rom = s.rom ∧ t.conf = s.conf := by
  obtain ⟨k, -, rfl⟩ | ⟨-, rfl⟩ := haltStep_next hs
  · exact ⟨inv_of_same (takeInterrupt_inv k h) rfl rfl rfl rfl rfl rfl (.inl rfl), rfl, rfl⟩
  · refine ⟨inv_of_same h rfl rfl rfl rfl rfl rfl ?_, rfl, rfl⟩
    cases release
    · exact .inr rfl
    · exact .inl rfl

/-! ### Instructions -/

/-- RAM stays in canonical form. -/
theorem exec_ramWf (h : exec i s = .next t) (hram : s.ram.ramWf = true) : t.ram.ramWf = true := by
  obtain ⟨u, hw, he⟩ := exec_next h
  rw [he.retired]
  exact hw.ramWf hram

/-- SB selects a bank the part has (R296); no other instruction writes the selection. -/
theorem exec_sbr_lt (h : exec i s = .next t) (hs : s.sbr.toNat < s.conf.part.nbanks) :
    t.sbr.toNat < s.conf.part.nbanks := by
  have hsbr := congrArg State.sbr (exec_listed h)
  by_cases hi : ∃ n, i = .sb n
  · obtain ⟨n, rfl⟩ := hi
    obtain ⟨hn, h⟩ | ⟨-, h⟩ := ite_eq_iff.1 h
    · obtain ⟨-, rfl⟩ := (advance_next_iff _).1 h
      exact hn
    · cases h
  · have hk := kept_of_not_listed hsbr (writesBankSelection_eq_false fun n hn => hi ⟨n, hn⟩)
    rwa [hk]

theorem exec_bnk (h : exec i s = .next t) : t.bnk = setsBankPrefix i := (congrArg State.bnk (exec_listed h) :)

theorem exec_vsk (h : exec i s = .next t) : t.vsk = (skipsVertically i && s.conf.vskip) :=
  (congrArg State.vsk (exec_listed h) :)

/-- BANK is neither LAI nor CLA. -/
theorem not_bankPrefix_and_skip (i : Instr) : (setsBankPrefix i && skipsVertically i) = false := by
  unfold setsBankPrefix
  split <;> rfl

/-- HALT and HOLD leave BNK and VSK 0. -/
theorem no_prefix_of_writesMode (h : writesMode i = true) : setsBankPrefix i = false ∧ skipsVertically i = false := by
  unfold writesMode at h
  split at h
  · exact ⟨rfl, rfl⟩
  · exact ⟨rfl, rfl⟩
  · cases h

/-- An instruction keeps the invariant; it is executed in RUN mode. -/
theorem exec_inv (hrun : s.mode = .run) (h : s.Inv) (he : exec i s = .next t) : t.Inv := by
  obtain ⟨hram, hrom, hsbr, -, -, -⟩ := h
  have hconf := exec_conf he
  refine ⟨exec_ramWf he hram, ?_, ?_, ?_, ?_, fun hm => ?_⟩
  · rwa [exec_rom he, hconf]
  · rw [hconf]
    exact exec_sbr_lt he hsbr
  · rw [exec_bnk he, exec_vsk he, ← Bool.and_assoc, not_bankPrefix_and_skip, Bool.false_and]
  · rw [exec_vsk he, hconf]
    exact fun hv => (Bool.and_eq_true_iff.1 hv).2
  · have hw : writesMode i = true := by
      by_contra hn
      have hk := kept_of_not_listed (congrArg State.mode (exec_listed he)) (Bool.eq_false_iff.2 hn)
      exact hm (hk.trans hrun)
    obtain ⟨hb, hv⟩ := no_prefix_of_writesMode hw
    rw [exec_bnk he, exec_vsk he, hb, hv]
    exact ⟨rfl, rfl⟩

theorem runStep_inv (hrun : s.mode = .run) (h : s.Inv) (hs : runStep s = .next t) :
    t.Inv ∧ t.rom = s.rom ∧ t.conf = s.conf := by
  obtain ⟨k, -, rfl⟩ | ⟨-, i, -, he⟩ := runStep_next hs
  · exact ⟨takeInterrupt_inv k h, rfl, rfl⟩
  · exact ⟨exec_inv hrun h he, exec_rom he, exec_conf he⟩

/-! ### Steps and runs -/

/-- A step keeps the invariant, the mask ROM and the parameters. -/
theorem step_inv (h : s.Inv) (hs : step s = .next t) : t.Inv ∧ t.rom = s.rom ∧ t.conf = s.conf := by
  obtain ⟨-, rfl⟩ | ⟨-, ⟨hrun, hs⟩ | ⟨-, hs⟩ | ⟨-, hs⟩⟩ := step_next hs
  · exact ⟨afterReset_inv h, rfl, rfl⟩
  · exact runStep_inv (s := s.atBoundary) hrun (atBoundary_inv h) hs
  · exact haltStep_inv (s := s.atBoundary) (atBoundary_inv h) hs
  · exact holdStep_inv h hs

/-- Settles O8: reset, the boundary and the instruction each keep the invariant. -/
theorem everyStepKeepsInvariant : Obligations.EveryStepKeepsInvariant :=
  fun _ _ h hs => (step_inv h hs).1

/-- Settles O9, by induction on the run: the environment of a boundary is no part of what is kept. -/
theorem runsKeepInvariantRomAndOptions : Obligations.RunsKeepInvariantRomAndOptions := by
  intro s t h hr
  induction hr with
  | refl => exact ⟨h, rfl, rfl⟩
  | @step t u v _ hs ih =>
    obtain ⟨hinv, hrom, hconf⟩ := ih
    obtain ⟨hinv', hrom', hconf'⟩ := step_inv (s := { t with env := v }) hinv hs
    exact ⟨hinv', hrom'.trans hrom, hconf'.trans hconf⟩

end Sys2Proof.Machine
end

section
/-! SUPPORT. Instructions on registers and on data memory: immediates and transfers into AC, the vertical skip, stores,
exchanges and logic on a memory word, and the two words of M2(HL). -/

namespace Sys2Proof.Machine

variable {s : State}

/-! ### Encodings -/

theorem decode_one_byte {b : Byte} {i : Instr} (e : Enc2) (hl : instrLength b = some 1) (hd : decode1 b = some i) :
    decode e [b] = .ok (i, []) := by
  simp only [decode, hl, hd]

theorem codedAs_smb (t : BitVec 2) : CodedAs (.smb t) [0x0C + t.setWidth 8] 1 := by
  have hl : instrLength (0x0C + t.setWidth 8) = some 1 := by revert t; decide
  have hd : decode1 (0x0C + t.setWidth 8) = some (.smb t) := by revert t; decide
  have he : (0b000011#6 ++ t : Byte) = 0x0C + t.setWidth 8 := by revert t; decide
  exact ⟨fun e => ⟨decode_one_byte e hl hd, congrArg (fun b => [b]) he⟩, rfl⟩

theorem encode_adi (e : Enc2) (i : Nibble) : encode e (.adi i) = [0xCF, 0x20 + i.setWidth 8] := by
  have hi : (0x2#4 ++ i : Byte) = 0x20 + i.setWidth 8 := by revert i; decide
  exact congrArg (fun b => [0xCF, b]) hi

/-- Under the default table no code of ADI is another row's but the two of DAA and DAS (R107). -/
theorem decode_adi (i : Nibble) (h6 : i ≠ 6) (h10 : i ≠ 10) :
    decode defaultEnc2 [0xCF, 0x20 + i.setWidth 8] = .ok (.adi i, []) := by
  have hd : decode2 defaultEnc2 0xCF (0x20 + i.setWidth 8) = some (.adi i) := by
    revert i
    decide
  have hl : instrLength 0xCF = some 2 := rfl
  simp only [decode, hl, hd]

/-! ### The end of an instruction where NPC has room -/

theorem len_lt_of_room {len : Nat} (h : s.RoomForNpc len) : len < 4096 :=
  Nat.lt_of_le_of_lt (Nat.le_add_left _ _) h.1

theorem npcUsable_of_room {len : Nat} (h : s.RoomForNpc len) : s.npcUsable len = true :=
  (npcUsable_iff (len_lt_of_room h)).2 h

theorem advance_ended {len : Nat} (h : s.RoomForNpc len) : advance len s = .next (.ended len s) :=
  advance_of_room h (len_lt_of_room h)

/-! ### Results and ZF -/

theorem isZero_eq_decide {v : Nibble} {p : Prop} [Decidable p] (h : v = 0 ↔ p) : isZero v = decide p :=
  (decide_eq_decide (p := v = 0)).2 h

theorem ofNat_eq_zero_iff (n : Nat) : BitVec.ofNat 4 n = 0 ↔ n % 16 = 0 := by
  rw [← BitVec.toNat_inj]
  simp

theorem complement_eq_zero_iff (v : Nibble) : ~~~v = 0 ↔ v = 15 := by
  revert v
  decide

/-- An instruction that loads AC and sets ZF from it (R29). -/
theorem advance_setAcZ {len : Nat} {v : Nibble} {p : Prop} [Decidable p] (hp : v = 0 ↔ p) (h : s.RoomForNpc len) :
    advance len (s.setAcZ v) = .next (.ended len { s with ac := v, zf := decide p }) := by
  rw [← isZero_eq_decide hp]
  exact advance_ended (s := s.setAcZ v) h

/-- Settles O29: each of the three adds, and ZF is of the sum. -/
theorem addImmediateAndDecimalAdjust : Obligations.AddImmediateAndDecimalAdjust := by
  refine ⟨⟨⟨fun _ => ⟨rfl, rfl⟩, rfl⟩, ⟨fun _ => ⟨rfl, rfl⟩, rfl⟩⟩, fun i =>
    ⟨fun e => encode_adi e i, rfl, decode_adi i, fun s h => ⟨?_, ?_, ?_⟩⟩⟩
  · exact advance_setAcZ (ofNat_eq_zero_iff (s.ac.toNat + 6)) h
  · exact advance_setAcZ (ofNat_eq_zero_iff (s.ac.toNat + 10)) h
  · exact advance_setAcZ (ofNat_eq_zero_iff (s.ac.toNat + i.toNat)) h

/-- Settles O33: the six transfers into AC. -/
theorem transfersIntoAccumulator : Obligations.TransfersIntoAccumulator :=
  fun s => ⟨fun h => ⟨advance_setAcZ (complement_eq_zero_iff s.ac) h, advance_setAcZ Iff.rfl h⟩,
    fun h => ⟨advance_setAcZ Iff.rfl h, advance_setAcZ Iff.rfl h, advance_setAcZ Iff.rfl h, advance_setAcZ Iff.rfl h⟩⟩

/-! ### The vertical skip -/

theorem loadImmediateSkipping_of_skip (i : Nibble) (h : s.RoomForNpc 1) (hv : s.vsk = true) (hc : s.conf.vskip = true) :
    loadImmediateSkipping i s = .next { s with pc := s.pc + 1, bnk := false, vsk := true } := by
  simp only [loadImmediateSkipping, hv, hc, Bool.and_self, if_true]
  exact advanceWith_of_usable 1 false true (npcUsable_of_room h)

theorem loadImmediateSkipping_of_load (i : Nibble) (h : s.RoomForNpc 1) (hs : s.vsk = false ∨ s.conf.vskip = false) :
    loadImmediateSkipping i s =
      .next { s with ac := i, zf := decide (i = 0), pc := s.pc + 1, bnk := false, vsk := s.conf.vskip } := by
  have hskip : ¬ (s.vsk && s.conf.vskip) = true := by
    obtain hs | hs := hs <;> simp [hs]
  rw [loadImmediateSkipping, if_neg hskip]
  exact advanceWith_of_usable (s := s.setAcZ i) 1 false _ (npcUsable_of_room (s := s) h)

/-- Settles O35: CLA is LAI 0, and LAI skips exactly where VSK and the option are both on. -/
theorem verticalSkip : Obligations.VerticalSkip :=
  fun _ i h =>
    ⟨fun hv hc => ⟨loadImmediateSkipping_of_skip i h hv hc, loadImmediateSkipping_of_skip 0 h hv hc⟩,
      fun hs => ⟨loadImmediateSkipping_of_load i h hs, loadImmediateSkipping_of_load 0 h hs⟩⟩

/-! ### Data-memory operands -/

theorem withRam_of_read {a : RamAddr} {v : Nibble} (k : Nibble → Outcome) (h : ramRead s.ram a = some v) :
    withRam s a k = k v := by
  simp only [withRam, h]

theorem withRam_of_unwritten {a : RamAddr} (k : Nibble → Outcome) (h : ramRead s.ram a = none) :
    withRam s a k = .fault .readOfUnwrittenState := by
  simp only [withRam, h]

theorem withAddr_of_none {a8 : Byte} (k : RamAddr → Outcome) (h : s.dataAddr a8 = none) :
    withAddr s a8 k = .fault .bankPrefixOnMemoryOperand := by
  simp only [withAddr, h]

theorem withWord_of_none {a8 : Byte} (k : RamAddr → Nibble → Outcome) (h : s.dataAddr a8 = none) :
    withWord s a8 k = .fault .bankPrefixOnMemoryOperand :=
  withAddr_of_none _ h

theorem withWord_of_unwritten {a8 : Byte} {a : RamAddr} (k : RamAddr → Nibble → Outcome) (ha : s.dataAddr a8 = some a)
    (h : ramRead s.ram a = none) : withWord s a8 k = .fault .readOfUnwrittenState :=
  (withAddr_of_addr _ ha).trans (withRam_of_unwritten _ h)

/-- An instruction that stores one word, and ends with whatever else `f` writes. -/
theorem advance_stores {len : Nat} (f : Memory → State) (a : RamAddr) (v : Nibble)
    (h : (f (ramWrite s.ram a v)).RoomForNpc len) :
    ∃ r, advance len (f (ramWrite s.ram a v)) = .next (.ended len (f r)) ∧ OnlyStored s.ram r [(a, v)] :=
  ⟨_, advance_ended h, onlyStored_one _ _ _⟩

theorem exec_smb (t : BitVec 2) :
    exec (.smb t) s = withWord s s.hl fun a m => advance 1 { s with ram := ramWrite s.ram a (setBit m t) } := rfl

theorem exec_s : exec .s s = withAddr s s.hl fun a => advance 1 { s with ram := ramWrite s.ram a s.ac } := rfl

theorem exec_xa (r : PtrReg) :
    exec (.xa r) s =
      withWord s (s.pointer r) fun a m => advance 1 { s with ram := ramWrite s.ram a s.ac, ac := m } := rfl

theorem exec_xadr (i8 : Byte) :
    exec (.xadr i8) s = withWord s i8 fun a m => advance 2 { s with ram := ramWrite s.ram a s.ac, ac := m } := rfl

/-- An exchange stores AC and loads the word. -/
theorem exchange_stores {len : Nat} (a : RamAddr) (m : Nibble) (h : s.RoomForNpc len) :
    ∃ r, advance len { s with ram := ramWrite s.ram a s.ac, ac := m } = .next (.ended len { s with ram := r, ac := m }) ∧
      OnlyStored s.ram r [(a, s.ac)] :=
  advance_stores (fun r => { s with ram := r, ac := m }) a s.ac h

/-- XA exchanges AC with the word that the pair it names points to (R179). -/
theorem xa_stores {a : RamAddr} {m : Nibble} (r : PtrReg) (ha : s.dataAddr (s.pointer r) = some a)
    (hm : ramRead s.ram a = some m) (h : s.RoomForNpc 1) :
    ∃ q, exec (.xa r) s = .next (.ended 1 { s with ram := q, ac := m }) ∧ OnlyStored s.ram q [(a, s.ac)] := by
  rw [exec_xa, withWord_of_read _ ha hm]
  exact exchange_stores a m h

/-- Settles O30: the operand's address and word, then the one word stored; or the word holds no value. -/
theorem storesAndExchanges : Obligations.StoresAndExchanges := by
  refine ⟨codedAs_smb, ⟨fun _ => ⟨rfl, rfl⟩, rfl⟩, ⟨fun _ => ⟨rfl, rfl⟩, rfl⟩, ⟨fun _ => ⟨rfl, rfl⟩, rfl⟩,
    fun _ => ⟨fun _ => ⟨rfl, rfl⟩, rfl⟩, fun s a => ⟨fun ha h => ?_, fun m hm => ⟨fun t ha h => ?_, fun ha h => ?_,
    fun ha h => ?_, fun i8 ha h => ?_⟩⟩, fun s a hm => ⟨fun ha => ⟨fun t => ?_, ?_⟩, fun ha => ?_, fun i8 ha => ?_⟩⟩
  · rw [exec_s, withAddr_of_addr _ ha]
    exact advance_stores (fun r => { s with ram := r }) a s.ac h
  · rw [exec_smb, withWord_of_read _ ha hm]
    exact advance_stores (fun r => { s with ram := r }) a (setBit m t) h
  · exact xa_stores .hl ha hm h
  · exact xa_stores .xy ha hm h
  · rw [exec_xadr, withWord_of_read _ ha hm]
    exact exchange_stores a m h
  · exact withWord_of_unwritten _ ha hm
  · exact withWord_of_unwritten _ ha hm
  · exact withWord_of_unwritten _ ha hm
  · exact withWord_of_unwritten _ ha hm

theorem exec_rmb (t : BitVec 2) :
    exec (.rmb t) s = withWord s s.hl fun a m =>
      advance 1 { s with ram := ramWrite s.ram a (clearBit m t), zf := isZero (clearBit m t) } := rfl

theorem exec_andm :
    exec .andm s = withWord s s.hl fun a m =>
      advance 1 { s with ram := ramWrite s.ram a (s.ac &&& m), zf := isZero (s.ac &&& m) } := rfl

theorem exec_orm :
    exec .orm s = withWord s s.hl fun a m =>
      advance 1 { s with ram := ramWrite s.ram a (s.ac ||| m), zf := isZero (s.ac ||| m) } := rfl

/-- A store that sets ZF from the word stored. -/
theorem storeZ_stores {len : Nat} (a : RamAddr) (v : Nibble) (h : s.RoomForNpc len) :
    ∃ r, advance len { s with ram := ramWrite s.ram a v, zf := isZero v } =
        .next (.ended len { s with ram := r, zf := decide (v = 0) }) ∧ OnlyStored s.ram r [(a, v)] :=
  advance_stores (fun r => { s with ram := r, zf := isZero v }) a v h

/-- Settles O39: each stores the word it computes and sets ZF from it. -/
theorem memoryLogic : Obligations.MemoryLogic := by
  intro s a m t ha hm h
  rw [exec_rmb, exec_andm, exec_orm, withWord_of_read _ ha hm, withWord_of_read _ ha hm, withWord_of_read _ ha hm]
  exact ⟨storeZ_stores a (clearBit m t) h, storeZ_stores a (s.ac &&& m) h, storeZ_stores a (s.ac ||| m) h⟩

/-- Settles O41: each loads AC from the word, or from AC and the word, and sets ZF from AC. -/
theorem accumulatorLogicAndLoads : Obligations.AccumulatorLogicAndLoads := by
  refine fun s a m hm => ⟨fun ha h => ⟨?_, ?_, ?_, ?_⟩, fun ha h => ?_, fun i8 ha h => ?_⟩
  · exact (withWord_of_read _ ha hm).trans (advance_setAcZ Iff.rfl h)
  · exact (withWord_of_read _ ha hm).trans (advance_setAcZ Iff.rfl h)
  · exact (withWord_of_read _ ha hm).trans (advance_setAcZ BitVec.xor_eq_zero_iff h)
  · exact (withWord_of_read _ ha hm).trans (advance_setAcZ Iff.rfl h)
  · exact (withWord_of_read _ ha hm).trans (advance_setAcZ Iff.rfl h)
  · exact (withWord_of_read _ ha hm).trans (advance_setAcZ Iff.rfl h)

end Sys2Proof.Machine
end

section
/-! SUPPORT. The address of a data-memory operand, where an operand stops, and the two words of M2(HL). -/

namespace Sys2Proof.Machine

variable {s : State}

/-! ### The address of an operand -/

theorem bank_append_eq_ofNat (b : Bool) (a8 : Byte) :
    (BitVec.ofBool b ++ a8 : RamAddr) = BitVec.ofNat 9 (256 * b.toNat + a8.toNat) := by
  apply BitVec.eq_of_toNat_eq
  have h := a8.isLt
  have hb : b.toNat < 2 := b.toNat_lt
  rw [toNat_append_eq, BitVec.toNat_ofBool, BitVec.toNat_ofNat]
  omega

theorem dataAddr_byPrefix (a8 : Byte) (h : s.conf.dataBankRule = .byPrefix) :
    s.dataAddr a8 = some (BitVec.ofNat 9 (256 * s.bnk.toNat + a8.toNat)) := by
  simp only [State.dataAddr, State.dataBank, h, Option.map_some, bank_append_eq_ofNat]

theorem dataAddr_ruleNone (a8 : Byte) (h : s.conf.dataBankRule = .none) :
    s.dataAddr a8 = if s.bnk then none else some (BitVec.ofNat 9 a8.toNat) := by
  cases hb : s.bnk <;> simp [State.dataAddr, State.dataBank, h, hb, bank_append_eq_ofNat]

/-- Only after BANK can an operand have no address. -/
theorem bnk_of_dataAddr_none {a8 : Byte} (h : s.dataAddr a8 = none) : s.bnk = true := by
  cases hr : s.conf.dataBankRule
  · simp [dataAddr_byPrefix a8 hr] at h
  · simpa [dataAddr_ruleNone a8 hr] using h

/-- Two operands have one address only where their 8-bit addresses agree. -/
theorem dataAddr_injective {x y : Byte} {a : RamAddr} (hx : s.dataAddr x = some a) (hy : s.dataAddr y = some a) :
    x = y := by
  simp only [State.dataAddr, Option.map_eq_some_iff] at hx hy
  obtain ⟨b, hb, rfl⟩ := hx
  obtain ⟨b', hb', he⟩ := hy
  have hbb : b' = b := Option.some.inj (hb'.symm.trans hb)
  subst hbb
  have hn := congrArg BitVec.toNat he
  simp only [toNat_append_eq] at hn
  exact BitVec.eq_of_toNat_eq (by omega)

/-! ### Where an operand stops -/

/-- IPM reads its port first, after BANK the internal control register (log 43). -/
theorem exec_ipm_of_no_addr {v : Nibble} (h : s.dataAddr s.hl = none) (hv : s.crRead s.dpl = some v) :
    exec .ipm s = .fault .bankPrefixOnMemoryOperand := by
  rw [exec_ipm, withPort, if_pos (bnk_of_dataAddr_none h), hv]
  exact withAddr_of_none _ h

theorem withAddr2_of_no_addr (k : RamAddr → RamAddr → Outcome) (he : s.dpl.getLsbD 0 = false)
    (h : s.dataAddr s.hl = none) : withAddr2 s k = .fault .bankPrefixOnMemoryOperand := by
  rw [withAddr2, if_neg (by rw [he]; decide), withAddr_of_none _ h]

theorem withAddr2_of_odd (k : RamAddr → RamAddr → Outcome) (ho : s.dpl.getLsbD 0 = true) :
    withAddr2 s k = .fault .m2OddAddress := by
  rw [withAddr2, if_pos ho]

/-- The instruction begins by reading the word of data memory at `a8`. -/
def ReadsWordAt (s : State) (a8 : Byte) (i : Instr) : Prop := ∃ k, exec i s = withWord s a8 k

theorem ReadsWordAt.stops {a8 : Byte} {i : Instr} (h : ReadsWordAt s a8 i) :
    (s.dataAddr a8 = none → exec i s = .fault .bankPrefixOnMemoryOperand) ∧
      ∀ a, s.dataAddr a8 = some a → ramRead s.ram a = none → exec i s = .fault .readOfUnwrittenState := by
  obtain ⟨k, hk⟩ := h
  rw [hk]
  exact ⟨withWord_of_none k, fun a ha hr => withWord_of_unwritten k ha hr⟩

/-- Settles O37: the address by the rule, and each instruction listed begins with its operand. -/
theorem dataMemoryOperands : Obligations.DataMemoryOperands := by
  refine fun s => ⟨fun a8 => ⟨dataAddr_byPrefix a8, fun hr hb => ?_, fun hr hb => ?_⟩,
    fun h => ⟨withAddr_of_none _ h, fun v hv => exec_ipm_of_no_addr h hv, fun he => ?_⟩,
    fun a8 t p i hi => ReadsWordAt.stops ?_⟩
  · rw [dataAddr_ruleNone a8 hr, hb, if_neg (by decide)]
  · rw [dataAddr_ruleNone a8 hr, hb, if_pos rfl]
  · simp only [List.forall_mem_cons]
    exact ⟨withAddr2_of_no_addr _ he h, withAddr2_of_no_addr _ he h, withAddr2_of_no_addr _ he h,
      withAddr2_of_no_addr _ he h, nofun⟩
  · obtain ⟨rfl, hi⟩ | ⟨rfl, hi⟩ | hi := hi
    all_goals fin_cases hi <;> exact ⟨_, rfl⟩

/-! ### The two words of M2(HL) -/

/-- Setting bit 0 of an even word adds 1 to it. -/
theorem or_one_of_even (v : Nibble) (h : v.getLsbD 0 = false) : v ||| 1 = v + 1 ∧ v.toNat + 1 < 16 := by
  revert v
  decide

theorem hlOdd_eq (he : s.dpl.getLsbD 0 = false) : s.hlOdd = s.hl + 1 := by
  obtain ⟨hor, hlt⟩ := or_one_of_even s.dpl he
  have hh := s.dph.isLt
  apply BitVec.eq_of_toNat_eq
  have hnibble : (s.dpl + 1).toNat = (s.dpl.toNat + 1) % 16 := BitVec.toNat_add _ _
  have hbyte : (s.hl + 1).toNat = (s.hl.toNat + 1) % 256 := BitVec.toNat_add _ _
  rw [hbyte, State.hlOdd, hor, State.hl, toNat_append_eq, toNat_append_eq, hnibble]
  omega

theorem withAddr2_of_even {lo hi : RamAddr} (k : RamAddr → RamAddr → Outcome) (he : s.dpl.getLsbD 0 = false)
    (hlo : s.dataAddr s.hl = some lo) (hhi : s.dataAddr (s.hl + 1) = some hi) : withAddr2 s k = k lo hi := by
  rw [withAddr2, if_neg (by rw [he]; decide), withAddr_of_addr _ hlo, hlOdd_eq he, withAddr_of_addr _ hhi]

theorem even_words_differ {lo hi : RamAddr} (hlo : s.dataAddr s.hl = some lo) (hhi : s.dataAddr (s.hl + 1) = some hi) :
    lo ≠ hi := by
  rintro rfl
  have h := dataAddr_injective hlo hhi
  simp at h

/-- Both words are read, whichever is first; it stops where one of them has no value. -/
theorem withRam_two_of_unwritten {a b : RamAddr} (k : Nibble → Nibble → Outcome)
    (h : ramRead s.ram a = none ∨ ramRead s.ram b = none) :
    (withRam s a fun v => withRam s b fun w => k v w) = .fault .readOfUnwrittenState := by
  cases ha : ramRead s.ram a with
  | none => exact withRam_of_unwritten _ ha
  | some v =>
    rw [withRam_of_read _ ha]
    exact withRam_of_unwritten _ (h.resolve_left (by simp [ha]))

theorem extractLsb'_eq_ofNat {w : Nat} (x : BitVec w) (k : Nat) :
    x.extractLsb' k 4 = BitVec.ofNat 4 (x.toNat / 2 ^ k) := by
  rw [BitVec.extractLsb', Nat.shiftRight_eq_div_pow]

theorem timer0Words_eq (w v a : Nibble) :
    (w ++ v ++ a : BitVec 12) = BitVec.ofNat 12 (256 * w.toNat + 16 * v.toNat + a.toNat) := by
  apply BitVec.eq_of_toNat_eq
  have hw := w.isLt
  have hv := v.isLt
  have ha := a.isLt
  simp only [toNat_append_eq, BitVec.toNat_ofNat]
  omega

theorem exec_lae :
    exec .lae s = withAddr2 s fun lo hi => withRam s lo fun v => withRam s hi fun w =>
      advance 1 { s with ac := v, e := w } := rfl

theorem exec_wttm0 :
    exec .wttm0 s = withAddr2 s fun lo hi => withRam s hi fun w => withRam s lo fun v =>
      advance 1 { s with t0r := (w ++ v ++ s.ac : BitVec 12) } := rfl

theorem exec_sae :
    exec .sae s = withAddr2 s fun lo hi =>
      advance 1 { s with ram := ramWrite (ramWrite s.ram lo s.ac) hi s.e } := rfl

theorem exec_rtim0 :
    exec .rtim0 s = withAddr2 s fun lo hi =>
      advance 1 { s with ram := ramWrite (ramWrite s.ram hi (s.t0c.extractLsb' 8 4)) lo (s.t0c.extractLsb' 4 4),
                         ac := s.t0c.extractLsb' 0 4 } := rfl

/-- Settles O43: odd, the address stops them; even, the two words are read or stored. -/
theorem twoWordOperands : Obligations.TwoWordOperands := by
  refine fun s => ⟨fun ho => ⟨withAddr2_of_odd _ ho, withAddr2_of_odd _ ho, withAddr2_of_odd _ ho, withAddr2_of_odd _ ho⟩,
    fun lo hi he hlo hhi hr => ⟨?_, ?_⟩, fun lo hi he hlo hhi h => ⟨?_, ?_, fun v w hv hw => ⟨?_, ?_⟩⟩⟩
  · rw [exec_lae, withAddr2_of_even _ he hlo hhi]
    exact withRam_two_of_unwritten _ hr
  · rw [exec_wttm0, withAddr2_of_even _ he hlo hhi]
    exact withRam_two_of_unwritten _ hr.symm
  · rw [exec_sae, withAddr2_of_even _ he hlo hhi]
    exact ⟨_, advance_ended h, onlyStored_two _ _ _ _ _ (even_words_differ hlo hhi)⟩
  · rw [exec_rtim0, withAddr2_of_even _ he hlo hhi]
    simp only [extractLsb'_eq_ofNat, pow_zero, Nat.div_one]
    exact ⟨_, advance_ended h, onlyStored_two _ _ _ _ _ (even_words_differ hlo hhi).symm⟩
  · rw [exec_lae, withAddr2_of_even _ he hlo hhi, withRam_of_read _ hv, withRam_of_read _ hw]
    exact advance_ended h
  · rw [exec_wttm0, withAddr2_of_even _ he hlo hhi, withRam_of_read _ hw, withRam_of_read _ hv, timer0Words_eq]
    exact advance_ended h

end Sys2Proof.Machine
end

section
/-! SUPPORT. Calls, returns, POP, and the way of a frame through the stack and back. -/

namespace Sys2Proof.Machine

variable {s t u : State}

/-! ### Calls -/

theorem exec_cal (a : BitVec 11) : exec (.cal a) s = call 2 (BitVec.ofNat 13 a.toNat) s := by
  have ha : (0#2 ++ a : RomAddr) = BitVec.ofNat 13 a.toNat := by
    apply BitVec.eq_of_toNat_eq
    have h := a.isLt
    rw [toNat_append_eq, BitVec.toNat_ofNat, BitVec.toNat_ofNat]
    omega
  rw [← ha]
  rfl

theorem exec_czp (p : Nibble) : exec (.czp p) s = call 1 (BitVec.ofNat 13 (4 * p.toNat)) s := by
  have hp : (0#7 ++ p ++ 0#2 : RomAddr) = BitVec.ofNat 13 (4 * p.toNat) := by
    revert p
    decide
  rw [← hp]
  rfl

/-- A call stores the frame of NPC, lowers SP and goes to its target (R72, R222). -/
theorem call_of_room {len : Nat} (target : RomAddr) (h : s.RoomForNpc len) :
    ∃ r, call len target s = .next (.wentTo target { s with ram := r, sp := s.sp - 4 }) ∧
      OnlyStored s.ram r (s.frameCells (frameOf s.cf s.zf (s.pc + BitVec.ofNat 13 len))) := by
  rw [call, if_pos (npcUsable_of_room h), ← frameWord_eq_frameOf]
  exact ⟨_, rfl, pushFrame_onlyStored s _⟩

theorem call_of_no_room {len : Nat} (target : RomAddr) (h : ¬ s.RoomForNpc len) (hl : len < 4096) :
    call len target s = .fault .pcOutOfBankOrRom := by
  rw [call, if_neg (mt (npcUsable_iff hl).1 h)]

/-- Settles O47: CAL and CZP are calls to an address on page 0 to 7 of bank 0. -/
theorem callsStoreFrame : Obligations.CallsStoreFrame := by
  refine fun s => ⟨fun a => ?_, fun p => ?_⟩
  · rw [exec_cal]
    exact ⟨fun h => call_of_room _ h, fun h => call_of_no_room _ h (by decide)⟩
  · rw [exec_czp]
    exact ⟨fun h => call_of_room _ h, fun h => call_of_no_room _ h (by decide)⟩

/-! ### POP -/

/-- POP raises SP first, so it reads the cells 2 and 3 above the old SP. -/
theorem exec_pop (r : PairReg) :
    exec (.pop r) s = withRam (s.raiseSp 2) (s.stackAddr 2) fun lo => withRam (s.raiseSp 2) (s.stackAddr 3) fun hi =>
      advance 2 ((s.raiseSp 2).setPair r hi lo) := by
  rw [← stackAddr_raiseSp s (d := 2) (k := 0) (n := 2) rfl, ← stackAddr_raiseSp s (d := 2) (k := 1) (n := 3) rfl]
  rfl

theorem setPair_roomForNpc {r : PairReg} {hi lo : Nibble} {len : Nat} (h : s.RoomForNpc len) :
    (s.setPair r hi lo).RoomForNpc len := by
  cases r <;> exact h

theorem exec_pop_of_read {lo hi : Nibble} (r : PairReg) (hlo : ramRead s.ram (s.stackAddr 2) = some lo)
    (hhi : ramRead s.ram (s.stackAddr 3) = some hi) (h : s.RoomForNpc 2) :
    exec (.pop r) s = .next (.ended 2 ((s.raiseSp 2).setPair r hi lo)) := by
  rw [exec_pop, withRam_of_read (s := s.raiseSp 2) _ hlo, withRam_of_read (s := s.raiseSp 2) _ hhi]
  exact advance_ended (setPair_roomForNpc h)

/-! ### Returns -/

/-- The frame that a return reads: the cells 4 to 7 above the old SP. -/
theorem frameAtSp_raiseSp :
    (s.raiseSp 4).frameAtSp =
      match ramRead s.ram (s.stackAddr 4), ramRead s.ram (s.stackAddr 5), ramRead s.ram (s.stackAddr 6),
        ramRead s.ram (s.stackAddr 7) with
      | some w0, some w1, some w2, some w3 => some (w3 ++ w2 ++ w1 ++ w0 : BitVec 16)
      | _, _, _, _ => none := by
  rw [← stackAddr_raiseSp s (d := 4) (k := 0) (n := 4) rfl, ← stackAddr_raiseSp s (d := 4) (k := 1) (n := 5) rfl,
    ← stackAddr_raiseSp s (d := 4) (k := 2) (n := 6) rfl, ← stackAddr_raiseSp s (d := 4) (k := 3) (n := 7) rfl]
  rfl

theorem frameAtSp_of_reads {w0 w1 w2 w3 : Nibble} (h0 : ramRead s.ram (s.stackAddr 4) = some w0)
    (h1 : ramRead s.ram (s.stackAddr 5) = some w1) (h2 : ramRead s.ram (s.stackAddr 6) = some w2)
    (h3 : ramRead s.ram (s.stackAddr 7) = some w3) :
    (s.raiseSp 4).frameAtSp = some (w3 ++ w2 ++ w1 ++ w0 : BitVec 16) := by
  rw [frameAtSp_raiseSp, h0, h1, h2, h3]

theorem frameAtSp_of_unwritten (h : ramRead s.ram (s.stackAddr 4) = none ∨ ramRead s.ram (s.stackAddr 5) = none ∨
    ramRead s.ram (s.stackAddr 6) = none ∨ ramRead s.ram (s.stackAddr 7) = none) :
    (s.raiseSp 4).frameAtSp = none := by
  rw [frameAtSp_raiseSp]
  split
  · simp_all
  · rfl

theorem exec_rt_of_frame {w : BitVec 16} (h : (s.raiseSp 4).frameAtSp = some w) :
    exec .rt s = .next (.wentTo (framePc w) { s with sp := s.sp + 4 }) :=
  returnPlain_next_iff.2 ⟨w, h, rfl⟩

theorem exec_rti_of_frame {w : BitVec 16} (h : (s.raiseSp 4).frameAtSp = some w) :
    exec .rti s = .next (.wentTo (framePc w) { s with sp := s.sp + 4, cf := frameCf w, zf := frameZf w,
                                                      mse := s.conf.entryEffects.rtiSetsMaster || s.mse }) :=
  returnFromInterrupt_next_iff.2 ⟨w, h, rfl⟩

theorem withPoppedFrame_of_none (k : BitVec 16 → State → Outcome) (h : (s.raiseSp 4).frameAtSp = none) :
    withPoppedFrame s k = .fault .readOfUnwrittenState := by
  simp only [withPoppedFrame, h]

theorem exec_rt_of_no_frame (h : (s.raiseSp 4).frameAtSp = none) : exec .rt s = .fault .readOfUnwrittenState :=
  withPoppedFrame_of_none _ h

theorem exec_rti_of_no_frame (h : (s.raiseSp 4).frameAtSp = none) : exec .rti s = .fault .readOfUnwrittenState := by
  change returnFromInterrupt s = _
  exact withPoppedFrame_of_none _ h

/-- The two flags in the high word of a frame, as magnitudes. -/
theorem frameFlags_eq (w : Nibble) :
    w.getLsbD 3 = decide (8 ≤ w.toNat) ∧ w.getLsbD 2 = decide (4 ≤ w.toNat % 8) := by
  revert w
  decide

/-- Settles O49: the words above SP, read after SP has been raised. -/
theorem popsAndReturnsLoad : Obligations.PopsAndReturnsLoad := by
  refine fun s => ⟨fun lo hi hlo hhi h => ⟨exec_pop_of_read .hl hlo hhi h, exec_pop_of_read .xy hlo hhi h,
    exec_pop_of_read .ae hlo hhi h⟩, fun r h => ?_, fun w0 w1 w2 w3 h0 h1 h2 h3 target ht => ?_, fun h => ?_⟩
  · rw [exec_pop]
    exact withRam_two_of_unwritten (s := s.raiseSp 2) _ h
  · have hw := frameAtSp_of_reads h0 h1 h2 h3
    obtain ⟨hcf, hzf⟩ := frameFlags_eq w3
    rw [exec_rt_of_frame hw, exec_rti_of_frame hw, framePc_append, frameCf_append, frameZf_append, hcf, hzf, ht]
    exact ⟨rfl, rfl⟩
  · have hw := frameAtSp_of_unwritten h
    exact ⟨exec_rt_of_no_frame hw, exec_rti_of_no_frame hw⟩

/-! ### A frame and back -/

theorem framePc_frameWord (cf zf : Bool) (pc : RomAddr) : framePc (frameWord cf zf pc) = pc := by
  apply BitVec.eq_of_toNat_eq
  have h := pc.isLt
  simp only [framePc, frameWord, BitVec.extractLsb'_toNat, toNat_append_eq, Nat.shiftRight_zero]
  omega

theorem frameCf_frameWord (cf zf : Bool) (pc : RomAddr) : frameCf (frameWord cf zf pc) = cf := by
  simp only [frameCf, frameWord, BitVec.getLsbD_append]
  cases cf <;> rfl

theorem frameZf_frameWord (cf zf : Bool) (pc : RomAddr) : frameZf (frameWord cf zf pc) = zf := by
  simp only [frameZf, frameWord, BitVec.getLsbD_append]
  cases zf <;> rfl

/-- The four words of a 16-bit value, put together again. -/
theorem words_append (w : BitVec 16) :
    (w.extractLsb' 12 4 ++ w.extractLsb' 8 4 ++ w.extractLsb' 4 4 ++ w.extractLsb' 0 4 : BitVec 16) = w := by
  apply BitVec.eq_of_toNat_eq
  have h := w.isLt
  simp only [toNat_append_eq, BitVec.extractLsb'_toNat, Nat.shiftRight_eq_div_pow]
  omega

/-- `u` has the RAM and SP that pushing the frame `w` in `s` left, and the same stack bank. -/
structure HoldsFrame (s u : State) (w : BitVec 16) : Prop where
  conf : u.conf = s.conf
  ram : u.ram = (s.pushFrame w).ram
  sp : u.sp = s.sp - 4

namespace HoldsFrame

variable {w : BitVec 16}

/-- The cells 4 to 7 above the lowered SP are those the frame was pushed to. -/
theorem stackAddr (h : HoldsFrame s u w) {k n : Nat} (hk : BitVec.ofNat 8 n = 4 + BitVec.ofNat 8 k) :
    u.stackAddr n = s.stackAddr k := by
  rw [State.stackAddr, h.conf, h.sp, hk, ← BitVec.add_assoc, BitVec.sub_add_cancel]
  rfl

theorem cell (h : HoldsFrame s u w) {k n : Nat} {v : Nibble} (hk : BitVec.ofNat 8 n = 4 + BitVec.ofNat 8 k)
    (hv : (s.stackAddr k, v) ∈ s.frameCells w) : ramRead u.ram (u.stackAddr n) = some v := by
  rw [h.stackAddr hk, h.ram]
  exact (pushFrame_onlyStored s w).1 _ hv

theorem frameAtSp (h : HoldsFrame s u w) : (u.raiseSp 4).frameAtSp = some w := by
  have hw := frameAtSp_of_reads (h.cell (k := 0) (v := w.extractLsb' 0 4) rfl (by simp [State.frameCells]))
    (h.cell (k := 1) (v := w.extractLsb' 4 4) rfl (by simp [State.frameCells]))
    (h.cell (k := 2) (v := w.extractLsb' 8 4) rfl (by simp [State.frameCells]))
    (h.cell (k := 3) (v := w.extractLsb' 12 4) rfl (by simp [State.frameCells]))
  rwa [words_append] at hw

/-- RT and RTI take the frame of `cf`, `zf` and `pc` back, and SP is again what it was. -/
theorem comesBack {cf zf : Bool} {pc : RomAddr} (h : HoldsFrame s u (frameWord cf zf pc)) :
    exec .rt u = .next (.wentTo pc { u with sp := s.sp }) ∧
      exec .rti u = .next (.wentTo pc
        { u with sp := s.sp, cf := cf, zf := zf, mse := s.conf.entryEffects.rtiSetsMaster || u.mse }) := by
  have hsp : u.sp + 4 = s.sp := by rw [h.sp, BitVec.sub_add_cancel]
  rw [exec_rt_of_frame h.frameAtSp, exec_rti_of_frame h.frameAtSp, framePc_frameWord, frameCf_frameWord,
    frameZf_frameWord, hsp, h.conf]
  exact ⟨rfl, rfl⟩

end HoldsFrame

/-- What a call leaves in RAM and SP is its frame. -/
theorem holdsFrame_of_call {len : Nat} {target : RomAddr} (hconf : u.conf = s.conf) (h : call len target s = .next t)
    (hram : u.ram = t.ram) (hsp : u.sp = t.sp) : HoldsFrame s u (frameWord s.cf s.zf (s.npc len)) := by
  obtain ⟨-, rfl⟩ := (call_next_iff len target).1 h
  exact ⟨hconf, hram, hsp⟩

/-- Settles O18: interrupt entry, CAL and CZP push a frame, and a pushed frame comes back. -/
theorem storedFrameComesBack : Obligations.StoredFrameComesBack :=
  fun _ _ hconf => ⟨fun _ hram hsp => (HoldsFrame.mk hconf hram hsp).comesBack,
    fun _ _ h hram hsp => (holdsFrame_of_call hconf h hram hsp).comesBack,
    fun _ _ h hram hsp => (holdsFrame_of_call hconf h hram hsp).comesBack⟩

end Sys2Proof.Machine
end

section
/-! SUPPORT. Branches and the port instructions: without BANK on latches and pins, after BANK on the register bank. -/

namespace Sys2Proof.Machine

variable {s t u : State}

/-! ### Branches -/

/-- The four ends of an instruction that branches once its operand is read; a port read has counted a draw. -/
theorem branches_of_branch {i : Instr} {c : Bool} {p : Byte} {d : Nat}
    (h : exec i s = branch c p { s with draws := d }) : Branches i s { s with draws := d } c p := by
  refine ⟨?_, ?_, ?_, ?_⟩ <;> rintro rfl hroom <;> rw [h]
  · exact jumpInPage_of_room (s := { s with draws := d }) p hroom (by decide)
  · exact jumpInPage_of_no_room (s := { s with draws := d }) p hroom (by decide)
  · exact advance_ended (s := { s with draws := d }) hroom
  · exact advance_of_no_room (s := { s with draws := d }) hroom (by decide)

/-- Settles O50: each is `branch` on its condition. -/
theorem branchesOnRegistersAndFlags : Obligations.BranchesOnRegistersAndFlags :=
  fun s _ _ _ => ⟨branches_of_branch (d := s.draws) rfl, branches_of_branch (d := s.draws) rfl,
    branches_of_branch (d := s.draws) rfl, branches_of_branch (d := s.draws) rfl,
    branches_of_branch (d := s.draws) rfl, branches_of_branch (d := s.draws) rfl,
    branches_of_branch (d := s.draws) rfl, branches_of_branch (d := s.draws) rfl⟩

/-! ### Reading a port -/

theorem withPort_pins (p : Nibble) (k : Nibble → State → Outcome) (hb : s.bnk = false) :
    withPort s p k = k (s.pinLevels p) { s with draws := s.draws + 1 } := by
  simp only [withPort, hb, Bool.false_eq_true, if_false]

theorem withPort_register {p v : Nibble} (k : Nibble → State → Outcome) (hb : s.bnk = true) (hv : s.crRead p = some v) :
    withPort s p k = k v s := by
  simp only [withPort, hb, if_true, hv]

theorem withPort_no_register {p : Nibble} (k : Nibble → State → Outcome) (hb : s.bnk = true) (hv : s.crRead p = none) :
    withPort s p k = .fault .controlRegisterMapNotInSource := by
  simp only [withPort, hb, if_true, hv]

theorem withPortOld_afterBank (p : Nibble) (k : Nibble → State → Outcome) (hb : s.bnk = true) :
    withPortOld s p k = withPort s p k := by
  simp only [withPortOld, hb, if_true]

/-- Settles O51: `branch` on a bit of the word, the pins or the register. -/
theorem branchesOnMemoryAndPorts : Obligations.BranchesOnMemoryAndPorts :=
  fun s _ _ => ⟨fun _ _ ha hm => ⟨branches_of_branch (d := s.draws) (withWord_of_read _ ha hm),
      branches_of_branch (d := s.draws) (withWord_of_read _ ha hm)⟩,
    fun hb => ⟨branches_of_branch ((exec_bp _ _).trans (withPort_pins _ _ hb)),
      branches_of_branch ((exec_bnp _ _).trans (withPort_pins _ _ hb))⟩,
    fun hb _ hv => ⟨branches_of_branch (d := s.draws) ((exec_bp _ _).trans (withPort_register _ hb hv)),
      branches_of_branch (d := s.draws) ((exec_bnp _ _).trans (withPort_register _ hb hv))⟩⟩

/-! ### Writing a port -/

theorem portWrite_latch {j : Fin 8} {p : Nibble} (v : Nibble) (k : State → Outcome) (hb : s.bnk = false)
    (hp : p.toNat = latchPort j) : portWrite s p v k = k { s with pl := s.pl.set j v } := by
  simp only [portWrite, hb, Bool.false_eq_true, if_false, latchIndex_of_latchPort hp]

/-- The port numbers 7 to 11 and 13 to 15 have no latch (R251). -/
theorem latchIndex_of_noLatch {p : Nibble} (h : noLatch p) : latchIndex p = none := by
  unfold noLatch at h
  revert p
  decide

theorem portWrite_no_latch {p : Nibble} (v : Nibble) (k : State → Outcome) (hb : s.bnk = false) (hp : noLatch p) :
    portWrite s p v k = .fault .writeToInputOnlyOrAbsentPort := by
  simp only [portWrite, hb, Bool.false_eq_true, if_false, latchIndex_of_noLatch hp]

theorem portWrite_register {p v : Nibble} (k : State → Outcome) (hb : s.bnk = true) (hu : s.crWrite p v = some u) :
    portWrite s p v k = k u := by
  simp only [portWrite, hb, if_true, hu]

theorem portWrite_no_register {p v : Nibble} (k : State → Outcome) (hb : s.bnk = true) (hu : s.crWrite p v = none) :
    portWrite s p v k = .fault .controlRegisterMapNotInSource := by
  simp only [portWrite, hb, if_true, hu]

/-- A word to port 4, then a word to port 5. -/
theorem portWrite45_latches (v w : Nibble) (k : State → Outcome) (hb : s.bnk = false) :
    (portWrite s 4 v fun s1 => portWrite s1 5 w k) = k { s with pl := (s.pl.set 4 v).set 5 w } :=
  (portWrite_latch (j := 4) (p := 4) v _ hb rfl).trans
    (portWrite_latch (s := { s with pl := s.pl.set 4 v }) (j := 5) (p := 5) w k hb rfl)

/-- Settles O53: an output writes the one latch of its port, OP45 two. -/
theorem portOutputs : Obligations.PortOutputs := by
  refine fun s j hb => ⟨fun hp h => ⟨?_, fun a m ha hm => ?_⟩, fun h => ⟨fun i hi => ?_, ?_⟩⟩
  · rw [exec_op, portWrite_latch _ _ hb hp]
    exact advance_ended h
  · rw [exec_opm, withWord_of_read _ ha hm, portWrite_latch _ _ hb hp]
    exact advance_ended h
  · rw [exec_opdr, portWrite_latch _ _ hb hi]
    exact advance_ended h
  · rw [exec_op45, portWrite45_latches _ _ _ hb]
    exact advance_ended h

/-! ### The register bank -/

theorem crWrite_pc {n v : Nibble} (h : s.crWrite n v = some u) : u.pc = s.pc := by
  rw [crWrite_changes h]
  rfl

theorem crWrite_conf {n v : Nibble} (h : s.crWrite n v = some u) : u.conf = s.conf := by
  rw [crWrite_changes h]
  rfl

theorem crWrite_bnk {n v : Nibble} (h : s.crWrite n v = some u) : u.bnk = s.bnk := by
  rw [crWrite_changes h]
  rfl

theorem crWrite_room {n v : Nibble} {len : Nat} (h : s.crWrite n v = some u) (hr : s.RoomForNpc len) :
    u.RoomForNpc len := by
  rwa [State.RoomForNpc, crWrite_pc h, crWrite_conf h]

/-- Whether a register can be written is the map's, and no value's or other state's (R44). -/
theorem crWrite_eq_none_iff {n v : Nibble} :
    s.crWrite n v = none ↔ ∀ map, s.conf.crMap = some map → map[n.toNat].writable = false := by
  unfold State.crWrite State.crEntry
  cases hm : s.conf.crMap <;> simp

theorem crWrite_none_of_conf {n v w : Nibble} (h : s.crWrite n v = none) (hc : u.conf = s.conf) :
    u.crWrite n w = none := by
  rw [crWrite_eq_none_iff] at h ⊢
  rwa [hc]

theorem crWrite_none_of_noMap (n v : Nibble) (h : s.conf.crMap = none) : s.crWrite n v = none :=
  crWrite_eq_none_iff.2 (by simp [h])

theorem crRead_none_of_noMap (n : Nibble) (h : s.conf.crMap = none) : s.crRead n = none := by
  simp [State.crRead, State.crEntry, h]

/-- A register whose four bits are locations of its own reads as the word of CR. -/
theorem crValue_locations (n : Nibble) : crValue s n (Vector.replicate 4 .location) = s.cr[n.toNat] := by
  have hbits : ∀ v : Nibble, (BitVec.ofBool (v.getLsbD 3) ++ BitVec.ofBool (v.getLsbD 2) ++
      BitVec.ofBool (v.getLsbD 1) ++ BitVec.ofBool (v.getLsbD 0) : BitVec 4) = v := by decide
  exact hbits _

/-- The four bits of `v`, stored one after the other over a word, leave `v`. -/
theorem setBitTo_four (x v : Nibble) :
    setBitTo (setBitTo (setBitTo (setBitTo x 0 v[0]) 1 v[1]) 2 v[2]) 3 v[3] = v := by
  revert x v
  decide

/-- Such a register is written as the word of CR. -/
theorem crStore_locations (n v : Nibble) :
    crStore s n v (Vector.replicate 4 .location) = { s with cr := s.cr.set n.toNat v } := by
  simp [crStore, crBitStore, setBitTo_four]

theorem crRead_of_locations {n : Nibble} {map : Vector CrEntry 16} (hm : s.conf.crMap = some map)
    (hbits : map[n.toNat].bits = Vector.replicate 4 .location) (hr : map[n.toNat].readable = true) :
    s.crRead n = some s.cr[n.toNat] := by
  simp only [State.crRead, State.crEntry, hm, Option.map_some, hr, if_true, hbits, crValue_locations]

theorem crWrite_of_locations {n : Nibble} (v : Nibble) {map : Vector CrEntry 16} (hm : s.conf.crMap = some map)
    (hbits : map[n.toNat].bits = Vector.replicate 4 .location) (hw : map[n.toNat].writable = true) :
    s.crWrite n v = some { s with cr := s.cr.set n.toNat v } := by
  simp only [State.crWrite, State.crEntry, hm, Option.map_some, hw, if_true, hbits, crStore_locations]

end Sys2Proof.Machine
end

section
/-! SUPPORT. The port instructions after BANK where CR_MAP gives the access, and where port instructions stop. -/

namespace Sys2Proof.Machine

variable {s u u' : State}

/-! ### After BANK, where CR_MAP gives the access -/

theorem inputToAc_register {len : Nat} {p v : Nibble} (hb : s.bnk = true) (hv : s.crRead p = some v)
    (h : s.RoomForNpc len) :
    inputToAc len p s = .next (.ended len { s with ac := v, zf := decide (v = 0) }) := by
  rw [inputToAc, withPort_register _ hb hv]
  exact advance_setAcZ Iff.rfl h

/-- A read-modify-write: the register's value through `f`, back to the register. -/
theorem modify_register {p v : Nibble} (f : Nibble → Nibble) (k : Nibble → State → Outcome) (hb : s.bnk = true)
    (hv : s.crRead p = some v) (hu : s.crWrite p (f v) = some u) :
    (withPortOld s p fun old s1 => portWrite s1 p (f old) (k old)) = k v u := by
  rw [withPortOld_afterBank _ _ hb, withPort_register _ hb hv, portWrite_register _ hb hu]

theorem modifyPortZ_register {len : Nat} {p v : Nibble} (f : Nibble → Nibble) (hb : s.bnk = true)
    (hv : s.crRead p = some v) (hu : s.crWrite p (f v) = some u) (h : s.RoomForNpc len) :
    modifyPortZ len p f s = .next (.ended len { u with zf := decide (f v = 0) }) := by
  rw [modifyPortZ, modify_register f _ hb hv hu]
  have hroom : u.RoomForNpc len := crWrite_room hu h
  exact advance_ended (s := u.setZ (isZero (f v))) hroom

theorem spb_register {v : Nibble} (t : BitVec 2) (hb : s.bnk = true) (hv : s.crRead s.dpl = some v)
    (hu : s.crWrite s.dpl (setBit v t) = some u) (h : s.RoomForNpc 1) : exec (.spb t) s = .next (.ended 1 u) := by
  rw [exec_spb, modify_register (setBit · t) _ hb hv hu]
  exact advance_ended (crWrite_room hu h)

theorem output_register {len : Nat} {p v : Nibble} (hb : s.bnk = true) (hu : s.crWrite p v = some u)
    (h : s.RoomForNpc len) :
    (portWrite s p v fun s1 => advance len s1) = .next (.ended len u) := by
  rw [portWrite_register _ hb hu]
  exact advance_ended (crWrite_room hu h)

/-- Two words to registers 4 and 5, in this order. -/
theorem output45_registers {len : Nat} {v w : Nibble} (hb : s.bnk = true) (hu : s.crWrite 4 v = some u)
    (hu' : u.crWrite 5 w = some u') (h : s.RoomForNpc len) :
    (portWrite s 4 v fun s1 => portWrite s1 5 w fun s2 => advance len s2) = .next (.ended len u') := by
  rw [portWrite_register _ hb hu]
  exact output_register ((crWrite_bnk hu).trans hb) hu' (crWrite_room hu h)

theorem exec_ipm_register {a : RamAddr} {v : Nibble} (hb : s.bnk = true) (hv : s.crRead s.dpl = some v)
    (ha : s.dataAddr s.hl = some a) (h : s.RoomForNpc 1) :
    ∃ r, exec .ipm s = .next (.ended 1 { s with ram := r }) ∧ OnlyStored s.ram r [(a, v)] := by
  rw [exec_ipm, withPort_register _ hb hv, withAddr_of_addr _ ha]
  exact advance_stores (fun r => { s with ram := r }) a v h

theorem exec_ip45_registers {v w : Nibble} (hb : s.bnk = true) (hv : s.crRead 4 = some v) (hw : s.crRead 5 = some w)
    (h : s.RoomForNpc 2) : exec .ip45 s = .next (.ended 2 { s with e := v, ac := w }) := by
  rw [exec_ip45, withPort_register _ hb hv, withPort_register _ hb hw]
  exact advance_ended h

theorem withTableByte_of_read {b : Byte} (k : Byte → Outcome) (hp : s.RoomInPage 1)
    (hr : romRead s (s.pageAddr (s.e ++ s.ac : Byte)) = .ok b) : withTableByte s k = k b := by
  have hr' : romRead s (s.inPage 1 s.ea) = .ok b := by
    rw [inPage_eq_pageAddr (by decide) _ hp]
    exact hr
  simp only [withTableByte, (npcInPage_iff (by decide)).2 hp, if_true, hr']

theorem toNat_pageAddr (a : Byte) : (s.pageAddr a).toNat = s.pc.toNat / 256 * 256 + a.toNat := by
  have h := s.pc.isLt
  rw [State.pageAddr, toNat_append_eq, BitVec.extractLsb'_toNat, Nat.shiftRight_eq_div_pow]
  omega

theorem lt_romSize_of_romRead {a : RomAddr} {b : Byte} (h : romRead s a = .ok b) : a.toNat < s.conf.part.romSize := by
  by_contra hn
  rw [romRead, if_neg hn] at h
  cases h

/-- A page of which one byte can be read lies in the ROM, so NPC has room where it is in that page. -/
theorem roomForNpc_of_romRead {a : Byte} {b : Byte} (hp : s.RoomInPage 1) (hr : romRead s (s.pageAddr a) = .ok b) :
    s.RoomForNpc 1 := by
  have ha := lt_romSize_of_romRead hr
  rw [toNat_pageAddr] at ha
  unfold State.RoomInPage at hp
  unfold State.RoomForNpc
  cases hc : s.conf.part <;> simp only [hc, Part.romSize] at ha ⊢ <;> omega

/-- Settles O55: each port instruction acts on the register that CR_MAP gives. -/
theorem registerBankAccess : Obligations.RegisterBankAccess := by
  refine fun s hb => ⟨fun v hv h => ⟨inputToAc_register hb hv h, fun a ha => exec_ipm_register hb hv ha h, fun t u =>
      ⟨fun hu => spb_register t hb hv hu h, fun hu => modifyPortZ_register (clearBit · t) hb hv hu h⟩⟩,
    fun v hv h => inputToAc_register hb hv h,
    fun i v hv h => ⟨inputToAc_register hb hv h, fun m u =>
      ⟨fun hu => modifyPortZ_register (· &&& m) hb hv hu h, fun hu => modifyPortZ_register (· ||| m) hb hv hu h⟩⟩,
    fun v w hv hw h => exec_ip45_registers hb hv hw h, fun u hu h => output_register hb hu h,
    fun a m u ha hm hu h => ?_, fun i u hu h => output_register hb hu h,
    fun u u' hu hu' h => ?_, fun b u u' hp hr hu hu' => ?_,
    fun n v map hm hbits => ⟨crRead_of_locations hm hbits, crWrite_of_locations v hm hbits⟩⟩
  · rw [exec_opm, withWord_of_read _ ha hm]
    exact output_register hb hu h
  · rw [exec_op45]
    exact output45_registers hb hu hu' h
  · rw [exec_rtblp, withTableByte_of_read _ hp hr, hiNibble_eq_div, loNibble_eq_mod]
    exact output45_registers hb hu hu' (roomForNpc_of_romRead hp hr)

/-! ### Where port instructions stop -/

theorem inputToAc_no_register {len : Nat} {p : Nibble} (hb : s.bnk = true) (h : s.crRead p = none) :
    inputToAc len p s = .fault .controlRegisterMapNotInSource :=
  withPort_no_register _ hb h

/-- A read-modify-write of a port without a latch stops, whichever old value it asks for (R251). -/
theorem modify_no_latch {p : Nibble} (f : Nibble → Nibble) (k : Nibble → State → Outcome) (hb : s.bnk = false)
    (hp : noLatch p) :
    (withPortOld s p fun old s1 => portWrite s1 p (f old) (k old)) = .fault .writeToInputOnlyOrAbsentPort := by
  simp only [withPortOld, hb, Bool.false_eq_true, if_false]
  cases s.conf.portRmw
  · simp only [latchIndex_of_noLatch hp]
  · simp only [withPort_pins _ _ hb]
    exact portWrite_no_latch (s := { s with draws := s.draws + 1 }) _ _ hb hp

theorem modify_no_read {p : Nibble} (f : Nibble → Nibble) (k : Nibble → State → Outcome) (hb : s.bnk = true)
    (hr : s.crRead p = none) :
    (withPortOld s p fun old s1 => portWrite s1 p (f old) (k old)) = .fault .controlRegisterMapNotInSource := by
  rw [withPortOld_afterBank _ _ hb, withPort_no_register _ hb hr]

theorem modify_no_write {p v : Nibble} (f : Nibble → Nibble) (k : Nibble → State → Outcome) (hb : s.bnk = true)
    (hw : s.crWrite p v = none) :
    (withPortOld s p fun old s1 => portWrite s1 p (f old) (k old)) = .fault .controlRegisterMapNotInSource := by
  cases hr : s.crRead p with
  | none => exact modify_no_read f k hb hr
  | some old =>
    rw [withPortOld_afterBank _ _ hb, withPort_register _ hb hr]
    exact portWrite_no_register _ hb (crWrite_none_of_conf hw rfl)

/-- Outputs to registers 4 and 5 stop where one of them cannot be written. -/
theorem output45_no_register {v w x : Nibble} (k : State → Outcome) (hb : s.bnk = true)
    (h : s.crWrite 4 x = none ∨ s.crWrite 5 x = none) :
    (portWrite s 4 v fun s1 => portWrite s1 5 w k) = .fault .controlRegisterMapNotInSource := by
  cases hu : s.crWrite 4 v with
  | none => exact portWrite_no_register _ hb hu
  | some u =>
    have h5 : s.crWrite 5 x = none :=
      h.resolve_left fun h4 => Option.some_ne_none u (hu.symm.trans (crWrite_none_of_conf h4 rfl))
    rw [portWrite_register _ hb hu]
    exact portWrite_no_register _ ((crWrite_bnk hu).trans hb) (crWrite_none_of_conf h5 (crWrite_conf hu))

theorem exec_ip45_no_register (hb : s.bnk = true) (h : s.crRead 4 = none ∨ s.crRead 5 = none) :
    exec .ip45 s = .fault .controlRegisterMapNotInSource := by
  rw [exec_ip45]
  cases hv : s.crRead 4 with
  | none => exact withPort_no_register _ hb hv
  | some v =>
    rw [withPort_register _ hb hv]
    exact withPort_no_register _ hb (h.resolve_left fun h4 => Option.some_ne_none v (hv.symm.trans h4))

theorem exec_opm_of_read {a : RamAddr} {w : Nibble} (ha : s.dataAddr s.hl = some a) (hm : ramRead s.ram a = some w) :
    exec .opm s = portWrite s s.dpl w fun s1 => advance 1 s1 :=
  exec_opm.trans (withWord_of_read _ ha hm)

theorem exec_rtblp_of_read {b : Byte} (hp : s.RoomInPage 1) (hr : romRead s (s.pageAddr (s.e ++ s.ac : Byte)) = .ok b) :
    exec .rtblp s =
      portWrite s 4 (hiNibble b) fun s1 => portWrite s1 5 (loNibble b) fun s2 => advance 1 s2 :=
  exec_rtblp.trans (withTableByte_of_read _ hp hr)

/-- The port instructions that read the register of DPL first. -/
theorem readers_of_dpl_stop (hb : s.bnk = true) (h : s.crRead s.dpl = none) (t : BitVec 2) (p : Byte) :
    ∀ i ∈ [.ip, .ipm, .spb t, .rpb t, .bp t p, .bnp t p], exec i s = .fault .controlRegisterMapNotInSource := by
  simp only [List.forall_mem_cons]
  exact ⟨inputToAc_no_register hb h, exec_ipm.trans (withPort_no_register _ hb h), modify_no_read (setBit · t) _ hb h,
    modify_no_read (clearBit · t) _ hb h, (exec_bp t p).trans (withPort_no_register _ hb h),
    (exec_bnp t p).trans (withPort_no_register _ hb h), nofun⟩

/-- The port instructions that read the register they name first. -/
theorem readers_of_named_stop {q : Nibble} (hb : s.bnk = true) (h : s.crRead q = none) (m : Nibble) :
    ∀ i ∈ [.ipdr q, .andpdr m q, .orpdr m q], exec i s = .fault .controlRegisterMapNotInSource := by
  simp only [List.forall_mem_cons]
  exact ⟨inputToAc_no_register hb h, modify_no_read (· &&& m) _ hb h, modify_no_read (· ||| m) _ hb h, nofun⟩

/-- The port instructions that write the register they name. -/
theorem writers_of_named_stop {q v : Nibble} (hb : s.bnk = true) (h : s.crWrite q v = none) (m : Nibble) :
    ∀ i ∈ [.opdr q, .andpdr m q, .orpdr m q], exec i s = .fault .controlRegisterMapNotInSource := by
  simp only [List.forall_mem_cons]
  exact ⟨portWrite_no_register _ hb (crWrite_none_of_conf h rfl), modify_no_write (· &&& m) _ hb h,
    modify_no_write (· ||| m) _ hb h, nofun⟩

/-- Without a CR_MAP no register can be read or written, so every port instruction stops at its first access. -/
theorem portInstructions_stop_without_map (hb : s.bnk = true) (hr : ∀ n, s.crRead n = none)
    (hw : ∀ n v, s.crWrite n v = none) (t : BitVec 2) (p : Byte) (m q : Nibble) :
    ∀ i ∈ [.ip0, .ip, .ipm, .ipdr q, .ip45, .op, .opdr q, .op45, .spb t, .rpb t, .andpdr m q, .orpdr m q, .bp t p,
      .bnp t p], exec i s = .fault .controlRegisterMapNotInSource := by
  have hdpl := readers_of_dpl_stop hb (hr _) t p
  have hq := readers_of_named_stop hb (hr q) m
  simp only [List.forall_mem_cons] at hdpl hq ⊢
  obtain ⟨hip, hipm, hspb, hrpb, hbp, hbnp, -⟩ := hdpl
  obtain ⟨hipdr, handpdr, horpdr, -⟩ := hq
  exact ⟨inputToAc_no_register hb (hr 0), hip, hipm, hipdr, exec_ip45_no_register hb (.inl (hr 4)),
    exec_op.trans (portWrite_no_register _ hb (hw _ _)), (exec_opdr q).trans (portWrite_no_register _ hb (hw _ _)),
    exec_op45.trans (portWrite_no_register _ hb (hw _ _)), hspb, hrpb, handpdr, horpdr, hbp, hbnp, nofun⟩

/-- Settles O56: the latch or the register that is missing stops each, after the word or byte that is read first. -/
theorem portStops : Obligations.PortStops := by
  refine fun s t p m q => ⟨fun hb hq => ⟨portWrite_no_latch _ _ hb hq, modify_no_latch (· &&& m) _ hb hq,
    modify_no_latch (· ||| m) _ hb hq, ?namedByDpl⟩, fun hb hmap => ?noMap, fun hb => ⟨fun h => readers_of_dpl_stop hb h t p,
    inputToAc_no_register hb, fun h => readers_of_named_stop hb h m, exec_ip45_no_register hb, fun v h => ?noWrite,
    fun v h => writers_of_named_stop hb h m, fun v h => ?noWrite45⟩⟩
  case namedByDpl =>
    rintro rfl
    refine ⟨portWrite_no_latch _ _ hb hq, modify_no_latch (setBit · t) _ hb hq, modify_no_latch (clearBit · t) _ hb hq,
      fun a w ha hm => ?_⟩
    rw [exec_opm_of_read ha hm]
    exact portWrite_no_latch _ _ hb hq
  case noMap =>
    have hw : ∀ n v, s.crWrite n v = none := fun n v => crWrite_none_of_noMap n v hmap
    refine ⟨portInstructions_stop_without_map hb (fun n => crRead_none_of_noMap n hmap) hw t p m q,
      fun a w ha hm => ?_, fun b hp hr => ?_⟩
    · rw [exec_opm_of_read ha hm]
      exact portWrite_no_register _ hb (hw _ _)
    · rw [exec_rtblp_of_read hp hr]
      exact portWrite_no_register _ hb (hw _ _)
  case noWrite =>
    refine ⟨exec_op.trans (portWrite_no_register _ hb (crWrite_none_of_conf h rfl)), fun a w ha hm => ?_,
      modify_no_write (setBit · t) _ hb h, modify_no_write (clearBit · t) _ hb h⟩
    rw [exec_opm_of_read ha hm]
    exact portWrite_no_register _ hb (crWrite_none_of_conf h rfl)
  case noWrite45 =>
    refine ⟨exec_op45.trans (output45_no_register _ hb h), fun b hp hr => ?_⟩
    rw [exec_rtblp_of_read hp hr]
    exact output45_no_register _ hb h

end Sys2Proof.Machine
end

section
/-! SUPPORT. The other agents at a boundary, the entry of an interrupt, PUSH, table reads, and which instructions store. -/

namespace Sys2Proof.Machine

variable {s : State}

/-! ### The boundary -/

/-- Without a transfer the serial registers stand still (R292). -/
theorem serialAfter_of_not_running (h : s.siorun = false) :
    s.serialAfter = { sio := s.sio, sio2 := s.sio2, running := false } := by
  rw [State.serialAfter, h, if_neg (by decide)]

/-- Settles O7: the frame is that of `atBoundary` itself, and `serialAfter` holds the serial registers' values. -/
theorem boundaryTouchesPeripheralsOnly : Obligations.BoundaryTouchesPeripheralsOnly := by
  refine fun s => ⟨rfl, fun h => ?_⟩
  have hs := serialAfter_of_not_running h
  exact ⟨congrArg SerialState.sio hs, congrArg SerialState.sio2 hs, congrArg SerialState.running hs⟩

/-! ### Taking an interrupt -/

/-- In RUN mode, outside the prefix window, the interrupt that is chosen is taken. -/
theorem step_of_chosen {k : Fin 8} (hrun : s.mode = .run) (hr : s.resetOccurs = false) (hb : s.bnk = false)
    (hv : s.vsk = false) (hk : s.atBoundary.chooseIrq = some k) : step s = .next (s.atBoundary.takeInterrupt k) := by
  have hc : s.atBoundary.irqChoice = .take k := (irqChoice_take_iff k).2 ⟨hk, hb, hv⟩
  simp only [step, hr, hrun, Bool.false_eq_true, if_false, runStep, hc]

/-- What the entry of interrupt `k` writes: RAM, SP, PC, and the fields of IRQ_ENTRY_EFFECTS. -/
theorem takeInterrupt_eq (k : Fin 8) :
    s.takeInterrupt k = { s with
      ram := (s.takeInterrupt k).ram, sp := s.sp - 4, pc := s.conf.vec[k], mse := (s.entryEffects k).mse,
      irq := (s.entryEffects k).irq, edih := (s.entryEffects k).edih, edil := (s.entryEffects k).edil } := rfl

theorem takeInterrupt_onlyStored (k : Fin 8) :
    OnlyStored s.ram (s.takeInterrupt k).ram (s.frameCells (frameOf s.cf s.zf s.pc)) := by
  rw [State.takeInterrupt_ram, frameWord_eq_frameOf]
  exact pushFrame_onlyStored s _

theorem entryEffects_keeps_enables (k : Fin 8) (h : s.conf.entryEffects.clearsEnable = false) :
    (s.entryEffects k).edih = s.edih ∧ (s.entryEffects k).edil = s.edil :=
  ⟨if_neg (by rw [h]; decide), if_neg (by rw [h]; decide)⟩

/-- The four bits of a high and of a low word, as bits of the byte. -/
theorem getLsbD_hiNibble (x : Byte) (b : Fin 4) : (hiNibble x).getLsbD b.val = x.getLsbD (4 + b.val) := by
  simp [hiNibble]

theorem getLsbD_loNibble (x : Byte) (b : Fin 4) : (loNibble x).getLsbD b.val = x.getLsbD b.val := by
  simp [loNibble]

/-- Where it clears the enable flag, the entry clears the one bit of EDIH:EDIL that IRQ_ENABLE_MAP assigns (R308). -/
theorem entryEffects_clears_enable (k : Fin 8) (h : s.conf.entryEffects.clearsEnable = true) :
    (s.entryEffects k).edih = hiNibble (setBitTo (s.edih ++ s.edil : Byte) (s.conf.irqEnableMap[k]).val false) ∧
      (s.entryEffects k).edil = loNibble (setBitTo (s.edih ++ s.edil : Byte) (s.conf.irqEnableMap[k]).val false) :=
  ⟨if_pos h, if_pos h⟩

/-- The two words of EDIH:EDIL with one bit cleared, bit by bit. -/
theorem enables_bit_cleared (edih edil : Nibble) (m : Nat) (b : Fin 4) :
    (hiNibble (setBitTo (edih ++ edil : Byte) m false)).getLsbD b.val =
        (if 4 + b.val = m then false else edih.getLsbD b.val) ∧
      (loNibble (setBitTo (edih ++ edil : Byte) m false)).getLsbD b.val =
        (if b.val = m then false else edil.getLsbD b.val) := by
  have hb := b.isLt
  rw [getLsbD_hiNibble, getLsbD_loNibble, getLsbD_setBitTo _ _ _ _ (by omega), getLsbD_setBitTo _ _ _ _ (by omega),
    ← getLsbD_hiNibble, ← getLsbD_loNibble, hiNibble_append, loNibble_append]
  exact ⟨rfl, rfl⟩

/-- Settles O16: the step takes the interrupt chosen; its frame, its cells and its effects are those of the entry. -/
theorem interruptEntryStoresFrame : Obligations.InterruptEntryStoresFrame := by
  intro s k hrun hr hb hv hk
  refine ⟨_, _, _, (step_of_chosen hrun hr hb hv hk).trans (congrArg _ (takeInterrupt_eq k)),
    takeInterrupt_onlyStored (s := s.atBoundary) k, entryEffects_keeps_enables (s := s.atBoundary) k, fun h b => ?_⟩
  obtain ⟨hhi, hlo⟩ := entryEffects_clears_enable (s := s.atBoundary) k h
  rw [hhi, hlo]
  exact enables_bit_cleared _ _ _ b

/-! ### Which instructions store -/

/-- Settles O23: RAM is outside what `exec_listed` lets an instruction outside R67's list write. -/
theorem onlyListedInstructionsStore : Obligations.OnlyListedInstructionsStore :=
  fun _ _ _ h => kept_of_not_listed (congrArg State.ram (exec_listed h))

/-! ### Table reads -/

theorem withTableByte_of_no_room (k : Byte → Outcome) (h : ¬ s.RoomInPage 1) :
    withTableByte s k = .fault .pageBoundaryTransfer := by
  rw [withTableByte, if_neg (mt (npcInPage_iff (by decide)).1 h)]

theorem withTableByte_of_no_byte {f : Fault} (k : Byte → Outcome) (hp : s.RoomInPage 1)
    (hr : romRead s (s.pageAddr (s.e ++ s.ac : Byte)) = .error f) : withTableByte s k = .fault f := by
  rw [withTableByte, if_pos ((npcInPage_iff (by decide)).2 hp), inPage_eq_pageAddr (by decide) _ hp]
  simp only [State.ea, hr]

theorem exec_rtbl :
    exec .rtbl s = withTableByte s fun b => advance 1 { s with e := hiNibble b, ac := loNibble b } := rfl

/-- Settles O44: the page end and the ROM stop both; a page of which a byte was read has room for NPC, so they end. -/
theorem tableReads : Obligations.TableReads := by
  refine fun s => ⟨fun hn => ⟨withTableByte_of_no_room _ hn, withTableByte_of_no_room _ hn⟩,
    fun hp => ⟨fun b hr => ⟨?_, fun hb => ?_⟩,
      fun f hf => ⟨withTableByte_of_no_byte _ hp hf, withTableByte_of_no_byte _ hp hf⟩⟩⟩
  · rw [exec_rtbl, withTableByte_of_read _ hp hr, hiNibble_eq_div, loNibble_eq_mod]
    exact advance_ended (roomForNpc_of_romRead hp hr)
  · rw [exec_rtblp_of_read hp hr, portWrite45_latches _ _ _ hb, hiNibble_eq_div, loNibble_eq_mod]
    exact advance_ended (roomForNpc_of_romRead hp hr)

/-! ### PUSH -/

/-- PUSH stores the low word of its pair at SP and the high word above it, and lowers SP (R70, R226). -/
theorem exec_push_of_room (r : PairReg) (h : s.RoomForNpc 2) :
    ∃ q, exec (.push r) s = .next (.ended 2 { s with ram := q, sp := s.sp - 2 }) ∧
      OnlyStored s.ram q [(s.stackAddr 0, (s.pairWords r).2), (s.stackAddr 1, (s.pairWords r).1)] :=
  ⟨_, advance_ended h, onlyStored_two _ _ _ _ _ (stackAddr_ne s (by decide) (by decide) (by decide))⟩

/-- Settles O48: the three pairs of `exec_push_of_room`. -/
theorem pushStoresPair : Obligations.PushStoresPair :=
  fun _ h => ⟨exec_push_of_room .hl h, exec_push_of_room .xy h, exec_push_of_room .ae h⟩

end Sys2Proof.Machine
end

section
/-! SUPPORT. The decoder by its cases: what it answers on one byte, on two bytes and on the second-byte pages, for any
table `ENC2`. The round trips with the encoder are read off from these. -/

namespace Sys2Proof

variable {e : Enc2} {i : Instr} {b b1 b2 : Byte} {c : PageCode} {bytes rest : List Byte}

/-! ### One byte or two -/

theorem instrLength_cases (b : Byte) : instrLength b = none ∨ instrLength b = some 1 ∨ instrLength b = some 2 := by
  revert b
  decide

theorem decode_eq_ok_iff :
    decode e bytes = .ok (i, rest) ↔
      (∃ b, bytes = b :: rest ∧ instrLength b = some 1 ∧ decode1 b = some i) ∨
        ∃ b1 b2, bytes = b1 :: b2 :: rest ∧ instrLength b1 = some 2 ∧ decode2 e b1 b2 = some i := by
  constructor
  · intro h
    cases bytes with
    | nil => cases h
    | cons b tail =>
      obtain hl | hl | hl := instrLength_cases b <;> simp only [decode, hl] at h
      · cases h
      · cases hd : decode1 b <;> simp only [hd] at h <;> cases h
        exact .inl ⟨b, rfl, hl, hd⟩
      · cases tail with
        | nil => cases h
        | cons b2 tail =>
          cases hd : decode2 e b b2 <;> simp only [hd] at h
          · split at h <;> cases h
          · cases h
            exact .inr ⟨b, b2, rfl, hl, hd⟩
  · rintro (⟨b, rfl, hl, hd⟩ | ⟨b1, b2, rfl, hl, hd⟩) <;> simp only [decode, hl, hd]

theorem decode_one (hl : instrLength b = some 1) (hd : decode1 b = some i) : decode e (b :: rest) = .ok (i, rest) :=
  decode_eq_ok_iff.2 (.inl ⟨b, rfl, hl, hd⟩)

theorem decode_two (hl : instrLength b1 = some 2) (hd : decode2 e b1 b2 = some i) :
    decode e (b1 :: b2 :: rest) = .ok (i, rest) :=
  decode_eq_ok_iff.2 (.inr ⟨b1, b2, rfl, hl, hd⟩)

/-- A place of a page is read by `Enc2.decodePage`. -/
theorem decode_page : decode e (c.bytes ++ rest) = .ok (i, rest) ↔ e.decodePage c = some i := by
  have hl := instrLength_prefixByte c.page
  rw [← decode2_page]
  refine ⟨fun h => ?_, decode_two hl⟩
  obtain ⟨b, hb, -⟩ | ⟨b1, b2, hb, -, hd⟩ := decode_eq_ok_iff.1 h
  · cases hb
  · cases hb
    exact hd

/-! ### The pages -/

theorem exactFree_iff : e.exactFree c = true ↔ c ≠ illegalCode ∧ e.exactAt c = none := by
  simp [Enc2.exactFree]

theorem bitFree_iff : e.bitFree c = true ↔ e.exactFree c = true ∧ e.bitAt c = none := by
  simp [Enc2.bitFree]

/-- R108: a row is decoded where no row with a larger mask has the place, and CF FE never is (R106). -/
theorem decodePage_eq_some_iff :
    e.decodePage c = some i ↔
      (c ≠ illegalCode ∧ e.exactAt c = some i) ∨ (e.exactFree c = true ∧ e.bitAt c = some i) ∨
        (e.bitFree c = true ∧ e.immediateAt c = some i) := by
  rw [bitFree_iff, exactFree_iff, Enc2.decodePage]
  by_cases hc : c = illegalCode
  · simp [hc]
  · cases e.exactAt c <;> cases e.bitAt c <;> simp [hc]

theorem withBit_of_top6 {c' : PageCode} (h : c'.top6 = c.top6) : c'.withBit (c.byte.extractLsb' 0 2) = c := by
  obtain ⟨hp, hb⟩ := Prod.mk.inj h
  simp only [PageCode.withBit, hp, hb, top6_append_low2]

theorem withImmediate_of_top4 {c' : PageCode} (h : c'.top4 = c.top4) : c'.withImmediate (loNibble c.byte) = c := by
  obtain ⟨hp, hb⟩ := Prod.mk.inj h
  simp only [PageCode.withImmediate, hp, hb, hiNibble_append_loNibble]

/-- A row without a field is coded at its own place. -/
theorem exactRows_coded (e : Enc2) : ∀ r ∈ e.exactRows, (encode e r.2, r.2.encodable e) = (r.1.bytes, true) :=
  List.map_inj_left.1 rfl

/-- A row with a two-bit field is coded at the places that differ in the field alone. -/
theorem bitRows_coded (e : Enc2) :
    ∀ r ∈ e.bitRows, ∃ c : PageCode, c.top6 = r.1 ∧
      ∀ t, encode e (r.2 t) = (c.withBit t).bytes ∧ (r.2 t).encodable e = e.exactFree (c.withBit t) := by
  simp only [Enc2.bitRows, List.forall_mem_cons]
  exact ⟨⟨e.cmb, rfl, fun _ => ⟨rfl, rfl⟩⟩, ⟨e.sb, rfl, fun _ => ⟨rfl, rfl⟩⟩, nofun⟩

/-- The same of the rows with an immediate. -/
theorem immediateRows_coded (e : Enc2) :
    ∀ r ∈ e.immediateRows, ∃ c : PageCode, c.top4 = r.1 ∧
      ∀ n, encode e (r.2 n) = (c.withImmediate n).bytes ∧ (r.2 n).encodable e = e.bitFree (c.withImmediate n) := by
  simp only [Enc2.immediateRows, List.forall_mem_cons]
  exact ⟨⟨⟨.cf, 0x20⟩, rfl, fun _ => ⟨rfl, rfl⟩⟩, ⟨e.lhi, rfl, fun _ => ⟨rfl, rfl⟩⟩,
    ⟨e.lli, rfl, fun _ => ⟨rfl, rfl⟩⟩, ⟨e.ci, rfl, fun _ => ⟨rfl, rfl⟩⟩, ⟨e.cli, rfl, fun _ => ⟨rfl, rfl⟩⟩,
    ⟨e.ipdr, rfl, fun _ => ⟨rfl, rfl⟩⟩, ⟨e.opdr, rfl, fun _ => ⟨rfl, rfl⟩⟩, ⟨e.eih, rfl, fun _ => ⟨rfl, rfl⟩⟩,
    ⟨e.eil, rfl, fun _ => ⟨rfl, rfl⟩⟩, ⟨e.dih, rfl, fun _ => ⟨rfl, rfl⟩⟩, ⟨e.dil, rfl, fun _ => ⟨rfl, rfl⟩⟩, nofun⟩

/-! ### From the encoder to the pages -/

theorem legal_iff :
    e.legal = true ↔ (e.exactRows.map Prod.fst).Nodup ∧ (e.bitRows.map Prod.fst).Nodup ∧
      (e.immediateRows.map Prod.fst).Nodup ∧ illegalCode ∉ e.exactRows.map Prod.fst :=
  decide_eq_true_iff

/-- The rows without a field are those of the default table, at other places. -/
theorem decode_encode_exact (hl : e.legal = true) (hrow : i ∈ defaultEnc2.exactRows.map Prod.snd) :
    decode e (encode e i ++ rest) = .ok (i, rest) := by
  obtain ⟨hexact, -, -, hillegal⟩ := legal_iff.1 hl
  obtain ⟨⟨c, i⟩, hr, rfl⟩ := List.mem_map.1 (show i ∈ e.exactRows.map Prod.snd from hrow)
  obtain ⟨henc, -⟩ := Prod.mk.inj (exactRows_coded e _ hr)
  rw [henc, decode_page, decodePage_eq_some_iff]
  exact .inl ⟨fun hc => hillegal (hc ▸ List.mem_map_of_mem hr), lookup_eq_some_of_mem hexact hr⟩

theorem decode_encode_bit (hl : e.legal = true) (hi : i.encodable e = true) (hrow : ∃ r ∈ e.bitRows, ∃ t, r.2 t = i) :
    decode e (encode e i ++ rest) = .ok (i, rest) := by
  obtain ⟨-, hbit, -, -⟩ := legal_iff.1 hl
  obtain ⟨⟨k, mk⟩, hr, t, rfl⟩ := hrow
  obtain ⟨c, rfl, hc⟩ := bitRows_coded e _ hr
  obtain ⟨henc, hfree⟩ := hc t
  have hat : e.bitAt (c.withBit t) = some (mk t) := by
    rw [Enc2.bitAt, PageCode.withBit_top6, lookup_eq_some_of_mem hbit hr]
    simp [PageCode.withBit]
  rw [henc, decode_page, decodePage_eq_some_iff]
  exact .inr (.inl ⟨hfree ▸ hi, hat⟩)

theorem decode_encode_immediate (hl : e.legal = true) (hi : i.encodable e = true)
    (hrow : ∃ r ∈ e.immediateRows, ∃ n, r.2 n = i) : decode e (encode e i ++ rest) = .ok (i, rest) := by
  obtain ⟨-, -, himm, -⟩ := legal_iff.1 hl
  obtain ⟨⟨k, mk⟩, hr, n, rfl⟩ := hrow
  obtain ⟨c, rfl, hc⟩ := immediateRows_coded e _ hr
  obtain ⟨henc, hfree⟩ := hc n
  have hat : e.immediateAt (c.withImmediate n) = some (mk n) := by
    rw [Enc2.immediateAt, PageCode.withImmediate_top4, lookup_eq_some_of_mem himm hr]
    simp [PageCode.withImmediate]
  rw [henc, decode_page, decodePage_eq_some_iff]
  exact .inr (.inr ⟨hfree ▸ hi, hat⟩)

/-! ### From the pages to the encoder -/

/-- An instruction read on a page is coded at the place it was read from. -/
theorem coded_of_decodePage (h : e.decodePage c = some i) : encode e i = c.bytes ∧ i.encodable e = true := by
  obtain ⟨-, h⟩ | ⟨hfree, h⟩ | ⟨hfree, h⟩ := decodePage_eq_some_iff.1 h
  · exact Prod.mk.inj (exactRows_coded e _ (mem_of_lookup_eq_some h))
  · obtain ⟨mk, hr, rfl⟩ := Option.map_eq_some_iff.1 h
    obtain ⟨c', htop, hc⟩ := bitRows_coded e _ (mem_of_lookup_eq_some hr)
    obtain ⟨henc, hi⟩ := hc (c.byte.extractLsb' 0 2)
    rw [withBit_of_top6 htop] at henc hi
    exact ⟨henc, hi.trans hfree⟩
  · obtain ⟨mk, hr, rfl⟩ := Option.map_eq_some_iff.1 h
    obtain ⟨c', htop, hc⟩ := immediateRows_coded e _ (mem_of_lookup_eq_some hr)
    obtain ⟨henc, hi⟩ := hc (loNibble c.byte)
    rw [withImmediate_of_top4 htop] at henc hi
    exact ⟨henc, hi.trans hfree⟩

end Sys2Proof
end

section
/-! SUPPORT. The first bytes: what the one-byte codes and the two-byte codes off the pages are read as, and that each is
what the encoder writes. -/

namespace Sys2Proof

variable {e : Enc2} {i : Instr} {b b1 b2 : Byte} {lo : Nibble} {p : Byte}

/-! ### Fields of a first byte -/

theorem eq_ofNat_of_toNat {n : Nat} (h : lo.toNat = n) : lo = BitVec.ofNat 4 n := by
  rw [← h, BitVec.ofNat_toNat, BitVec.setWidth_eq]

theorem eq_append_of_hiNibble {n : Nat} (h : (hiNibble b).toNat = n) :
    b = (BitVec.ofNat 4 n ++ loNibble b : Byte) := by
  rw [← eq_ofNat_of_toNat h, hiNibble_append_loNibble]

/-- A low nibble in the quarter `q` is `q` with a two-bit field below. -/
theorem append_low2 (k : Nibble) (q : Nat) (h : lo.toNat / 4 = q) :
    ((k ++ BitVec.ofNat 2 q : BitVec 6) ++ lo.extractLsb' 0 2 : Byte) = k ++ lo := by
  subst h
  revert k lo
  decide

/-- A low nibble in the lower half is a three-bit field. -/
theorem append_low3 (k : Nibble) (h : lo.toNat < 8) :
    ((k ++ 0#1 : BitVec 5) ++ lo.extractLsb' 0 3 : Byte) = k ++ lo := by
  revert k lo
  decide

theorem bit_cases (t : BitVec 2) : t = 0 ∨ t = 1 ∨ t = 2 ∨ t = 3 := by
  revert t
  decide

/-! ### One-byte instructions -/

theorem codes00_coded (e : Enc2) : ∀ r ∈ codes00, (encode e r.2, r.2.encodable e) = ([r.1], true) :=
  List.map_inj_left.1 rfl

theorem codes40_coded (e : Enc2) : ∀ r ∈ codes40, (encode e r.2, r.2.encodable e) = ([r.1], true) :=
  List.map_inj_left.1 rfl

/-- `CLA` is read before `LAI` (R108), so the immediate that `LAI` is read with is not 0. -/
theorem coded_of_decodeField1 (hcla : b ≠ 0x80) (h : decodeField1 b = some i) :
    encode e i = [b] ∧ i.encodable e = true := by
  simp only [decodeField1] at h
  split at h
  -- SPB and SMB
  case h_1 hk =>
    rw [eq_append_of_hiNibble hk]
    split_ifs at h <;> cases h
    · exact ⟨congrArg ([·]) (append_low2 0 2 (by omega)), rfl⟩
    · exact ⟨congrArg ([·]) (append_low2 0 3 (by omega)), rfl⟩
  -- RPB and RMB
  case h_2 hk =>
    rw [eq_append_of_hiNibble hk]
    split_ifs at h <;> cases h
    · exact ⟨congrArg ([·]) (append_low2 2 2 (by omega)), rfl⟩
    · exact ⟨congrArg ([·]) (append_low2 2 3 (by omega)), rfl⟩
  -- LAI
  case h_6 hk =>
    cases h
    have hb := eq_append_of_hiNibble hk
    refine ⟨congrArg ([·]) hb.symm, bne_iff_ne.2 fun h0 => hcla ?_⟩
    rw [hb, h0]
    rfl
  case h_8 => cases h
  -- RFB, LDZ, SFB and CZP: every low nibble is an immediate
  all_goals
    rename_i hk
    cases h
    exact ⟨congrArg ([·]) (eq_append_of_hiNibble hk).symm, rfl⟩

theorem coded_of_decode1 (h : decode1 b = some i) : encode e i = [b] ∧ i.encodable e = true := by
  unfold decode1 at h
  cases h00 : codes00.lookup b with
  | some j =>
    rw [h00] at h
    cases h
    exact Prod.mk.inj (codes00_coded e _ (mem_of_lookup_eq_some h00))
  | none =>
    cases h40 : codes40.lookup b with
    | some j =>
      rw [h00, h40] at h
      cases h
      exact Prod.mk.inj (codes40_coded e _ (mem_of_lookup_eq_some h40))
    | none =>
      rw [h00, h40] at h
      refine coded_of_decodeField1 (fun hb => ?_) h
      subst hb
      cases h40

/-! ### Two-byte instructions -/

/-- The order of the branches under one high nibble: three with a bit number, for AC, M(HL) and P(DPL), then the two on
CF and ZF (R97, R98). -/
def branchAt (onAc onMem onPort : BitVec 2 → Instr) (onCarry onZero : Instr) (lo : Nibble) : Option Instr :=
  if lo.toNat < 4 then some (onAc (lo.extractLsb' 0 2))
  else if lo.toNat < 8 then some (onMem (lo.extractLsb' 0 2))
  else if lo.toNat < 12 then some (onPort (lo.extractLsb' 0 2))
  else if lo.toNat = 12 then some onCarry
  else if lo.toNat = 13 then some onZero
  else none

theorem decodeBranchOn_eq : decodeBranchOn lo p = branchAt (.ba · p) (.bm · p) (.bp · p) (.bc p) (.bz p) lo := rfl

theorem decodeBranchOnNo_eq :
    decodeBranchOnNo lo p = branchAt (.bna · p) (.bnm · p) (.bnp · p) (.bnc p) (.bnz p) lo := rfl

/-- What holds of each branch with the first byte `k ++ lo` that codes it holds of the one read at `lo`. -/
theorem of_branchAt {P : Instr → Byte → Prop} (k : Nibble) {onAc onMem onPort : BitVec 2 → Instr}
    {onCarry onZero : Instr} (h : branchAt onAc onMem onPort onCarry onZero lo = some i)
    (hac : ∀ t, P (onAc t) ((k ++ 0#2 : BitVec 6) ++ t)) (hmem : ∀ t, P (onMem t) ((k ++ 1#2 : BitVec 6) ++ t))
    (hport : ∀ t, P (onPort t) ((k ++ 2#2 : BitVec 6) ++ t)) (hcarry : P onCarry (k ++ 12#4))
    (hzero : P onZero (k ++ 13#4)) : P i (k ++ lo) := by
  simp only [branchAt] at h
  split_ifs at h <;> cases h
  · exact append_low2 (lo := lo) k 0 (by omega) ▸ hac _
  · exact append_low2 (lo := lo) k 1 (by omega) ▸ hmem _
  · exact append_low2 (lo := lo) k 2 (by omega) ▸ hport _
  · rename_i hlo
    exact eq_ofNat_of_toNat hlo ▸ hcarry
  · rename_i hlo
    exact eq_ofNat_of_toNat hlo ▸ hzero

theorem coded_of_decodeBranchOn (h : decodeBranchOn lo p = some i) :
    encode e i = [(0xD#4 ++ lo : Byte), p] ∧ i.encodable e = true :=
  of_branchAt (P := fun i b => encode e i = [b, p] ∧ i.encodable e = true) 0xD (decodeBranchOn_eq ▸ h)
    (fun _ => ⟨rfl, rfl⟩) (fun _ => ⟨rfl, rfl⟩) (fun _ => ⟨rfl, rfl⟩) ⟨rfl, rfl⟩ ⟨rfl, rfl⟩

theorem coded_of_decodeBranchOnNo (h : decodeBranchOnNo lo p = some i) :
    encode e i = [(0x9#4 ++ lo : Byte), p] ∧ i.encodable e = true :=
  of_branchAt (P := fun i b => encode e i = [b, p] ∧ i.encodable e = true) 0x9 (decodeBranchOnNo_eq ▸ h)
    (fun _ => ⟨rfl, rfl⟩) (fun _ => ⟨rfl, rfl⟩) (fun _ => ⟨rfl, rfl⟩) ⟨rfl, rfl⟩ ⟨rfl, rfl⟩

theorem coded_of_decodeC (h : decodeC e lo p = some i) :
    encode e i = [(0xC#4 ++ lo : Byte), p] ∧ i.encodable e = true := by
  simp only [decodeC] at h
  split at h
  case h_13 => cases h
  all_goals
    rename_i hk
    obtain rfl := eq_ofNat_of_toNat hk
  -- ORPDR and ANDPDR, and the two pages
  case h_5 | h_6 =>
    cases h
    exact ⟨congrArg (fun q => [_, q]) (portByte_portFields _ _), rfl⟩
  case h_11 => exact coded_of_decodePage (c := ⟨.cd, p⟩) h
  case h_12 => exact coded_of_decodePage (c := ⟨.cf, p⟩) h
  all_goals
    cases h
    exact ⟨rfl, rfl⟩

theorem encode_jmp (hi : Nibble) (low : Byte) : encode e (.jmp (hi ++ low)) = [(0xE#4 ++ hi : Byte), low] := by
  rw [encode, BitVec.extractLsb'_append_eq_left, BitVec.extractLsb'_append_eq_right]

theorem encode_cal (hi : BitVec 3) (low : Byte) :
    encode e (.cal (hi ++ low)) = [((0x5#4 ++ 0#1 : BitVec 5) ++ hi : Byte), low] := by
  rw [encode, BitVec.extractLsb'_append_eq_left, BitVec.extractLsb'_append_eq_right]
  rfl

theorem loNibble_lt_of_length_two (hl : instrLength b = some 2) (hk : hiNibble b = 5) : (loNibble b).toNat < 8 := by
  revert b
  decide

theorem coded_of_decode2 (hl : instrLength b1 = some 2) (h : decode2 e b1 b2 = some i) :
    encode e i = [b1, b2] ∧ i.encodable e = true := by
  simp only [decode2] at h
  split at h
  case h_8 => cases h
  all_goals
    rename_i hk
    have hb := eq_append_of_hiNibble hk
  -- CAL
  case h_1 =>
    cases h
    have hlo := loNibble_lt_of_length_two hl (eq_ofNat_of_toNat hk)
    rw [encode_cal, append_low3 5#4 hlo]
    exact ⟨congrArg ([·, b2]) hb.symm, rfl⟩
  case h_2 => exact hb ▸ coded_of_decodeBranchOnNo h
  case h_4 => exact hb ▸ coded_of_decodeC h
  case h_5 => exact hb ▸ coded_of_decodeBranchOn h
  -- JMP
  case h_6 =>
    cases h
    rw [encode_jmp]
    exact ⟨congrArg ([·, b2]) hb.symm, rfl⟩
  -- BNF and BF
  case h_3 | h_7 =>
    cases h
    exact ⟨congrArg ([·, b2]) hb.symm, rfl⟩

end Sys2Proof
end

section
/-! SUPPORT. The statements on the encoding: the two round trips, the length from the first byte, the assigned second
bytes, and the sample words. -/

namespace Sys2Proof

variable {e : Enc2} {i : Instr} {b : Byte} {bytes rest : List Byte}

/-! ### Encode of decode -/

/-- Settles O2: a code of one byte, or of two, is what the encoder writes. -/
theorem encodeOfDecodeIsBytes : Obligations.EncodeOfDecodeIsBytes := by
  intro e bytes rest i h
  obtain ⟨b, rfl, -, hd⟩ | ⟨b1, b2, rfl, hl, hd⟩ := decode_eq_ok_iff.1 h
  · obtain ⟨henc, hi⟩ := coded_of_decode1 (e := e) hd
    exact ⟨congrArg (· ++ rest) henc, hi⟩
  · obtain ⟨henc, hi⟩ := coded_of_decode2 hl hd
    exact ⟨congrArg (· ++ rest) henc, hi⟩

/-! ### Decode of encode -/

theorem decode2_jmp (a : BitVec 12) :
    decode2 e (0xE#4 ++ a.extractLsb' 8 4 : Byte) (a.extractLsb' 0 8) = some (.jmp a) := by
  simp only [decode2, hiNibble_append, loNibble_append, BitVec.extractLsb'_append_extractLsb']
  rfl

theorem decode2_cal (a : BitVec 11) :
    decode2 e (0b01010#5 ++ a.extractLsb' 8 3 : Byte) (a.extractLsb' 0 8) = some (.cal a) := by
  have hk : ∀ x : BitVec 3, (hiNibble (0b01010#5 ++ x : Byte)).toNat = 5 := by decide
  have hf : ∀ x : BitVec 3, (loNibble (0b01010#5 ++ x : Byte)).extractLsb' 0 3 = x := by decide
  simp only [decode2, hk, hf, BitVec.extractLsb'_append_extractLsb']

/-- The instructions are taken by the shape of their code: one byte without a field, with a bit number, with an
immediate or a pair; two bytes with an address or a byte of their own; and the rows of the two pages. -/
theorem decode_encode (hl : e.legal = true) (hi : i.encodable e = true) :
    decode e (encode e i ++ rest) = .ok (i, rest) := by
  cases i
  case cla | clc | stc | cma | ia | da | rar | ral | tae | tea | xae | im | dm | ad | adc | subc | anda | ora | exl |
      andm | orm | cm | lae | s | sae | rtbl | rtblp | il | dl | iy | dy | xah | xal | xax | xay | jpea | bank | rt |
      rti | ip0 | ip | ipm | op | opm | wttm0 | rtim0 | nop =>
    exact decode_one rfl rfl
  case smb t | rmb t | spb t | rpb t =>
    obtain rfl | rfl | rfl | rfl := bit_cases t <;> exact decode_one rfl rfl
  case la r | laI r | laD r | xa r | xaI r | xaD r =>
    cases r <;> exact decode_one rfl rfl
  case lai n =>
    have hn : n ≠ 0 := bne_iff_ne.1 hi
    clear hi
    exact decode_one (by revert n; decide) (by revert n; decide)
  case ldz n | sfb n | rfb n | czp n =>
    clear hi
    exact decode_one (by revert n; decide) (by revert n; decide)
  case imdr | dmdr | addr | ladr | xadr | leai | lhli | lxyi | bc | bnc | bz | bnz =>
    exact decode_two rfl rfl
  case andpdr | orpdr =>
    exact decode_two rfl (by simp [decode2, decodeC, hiNibble, loNibble])
  case ba t p | bna t p | bm t p | bnm t p | bp t p | bnp t p =>
    obtain rfl | rfl | rfl | rfl := bit_cases t <;> exact decode_two rfl rfl
  case bf n _ | bnf n _ =>
    clear hi
    exact decode_two (by revert n; decide) (by simp [decode2])
  case jmp a =>
    obtain ⟨_, _, heq, -, hlen⟩ := Laws.EncodingSize.jmp a e
    cases heq
    exact decode_two hlen (decode2_jmp a)
  case cal a =>
    obtain ⟨_, _, heq, -, hlen⟩ := Laws.EncodingSize.cal a e
    cases heq
    exact decode_two hlen (decode2_cal a)
  case daa | das | tha | tla | txa | tya | tah | tal | tax | tay | ip45 | op45 | wttm1 | rtim1 | start0 | start1 |
      stop0 | stop1 | mset | mreset | wtsp | rsp | halt | hold | starts | wtsio | rsio =>
    exact decode_encode_exact hl (by decide)
  case push r | pop r =>
    cases r <;> exact decode_encode_exact hl (by decide)
  case cmb | sb =>
    exact decode_encode_bit hl hi (by simp [Enc2.bitRows])
  case adi | lhi | lli | ci | cli | ipdr | opdr | eih | eil | dih | dil =>
    exact decode_encode_immediate hl hi (by simp [Enc2.immediateRows])

theorem encodable_defaultEnc2 (i : Instr) : i.encodable defaultEnc2 = i.wellFormed := by
  cases i
  case adi n | lhi n | lli n | ci n | cli n | ipdr n | opdr n | eih n | eil n | dih n | dil n | cmb n | sb n =>
    revert n
    decide
  all_goals rfl

theorem defaultEnc2_legal : defaultEnc2.legal = true := by decide

/-- Settles O1: the round trip of `decode_encode`, and two facts about the default table by evaluation. -/
theorem decodeOfEncodeIsInstruction : Obligations.DecodeOfEncodeIsInstruction :=
  ⟨fun _ _ _ => decode_encode, defaultEnc2_legal, encodable_defaultEnc2⟩

/-! ### The length -/

theorem length_encode (e : Enc2) (i : Instr) : (encode e i).length = i.size := by
  cases i <;> rfl

/-- R91: a decoded instruction is as long as its first byte says. -/
theorem instrLength_of_decode (h : decode e (b :: rest) = .ok (i, bytes)) : instrLength b = some i.size := by
  obtain ⟨b1, hb, hl, hd⟩ | ⟨b1, b2, hb, hl, hd⟩ := decode_eq_ok_iff.1 h <;> cases hb
  · rw [hl, ← length_encode e i, (coded_of_decode1 hd).1, List.length_singleton]
  · rw [hl, ← length_encode e i, (coded_of_decode2 hl hd).1, List.length_cons, List.length_singleton]

/-- R91, R105: the first bytes without an instruction, and those of two bytes. -/
theorem instrLength_eq (b : Byte) :
    instrLength b =
      if b = 0x9E ∨ b = 0x9F ∨ b = 0xCC ∨ b = 0xCE ∨ b = 0xDE ∨ b = 0xDF then none
      else if (0x50 ≤ b.toNat ∧ b.toNat ≤ 0x57) ∨ (0x90 ≤ b.toNat ∧ b.toNat ≤ 0x9D) ∨
        (0xB0 ≤ b.toNat ∧ b.toNat ≤ 0xC9) ∨ b = 0xCD ∨ b = 0xCF ∨ (0xD0 ≤ b.toNat ∧ b.toNat ≤ 0xDD) ∨
        0xE0 ≤ b.toNat then some 2 else some 1 := by
  revert b
  decide

theorem decode1_of_length (h : instrLength b = some 1) : ∃ i, decode1 b = some i := by
  rw [← Option.isSome_iff_exists]
  revert b
  decide

/-- A second byte with which each first byte begins an instruction under the default `ENC2`: MSET on page CDH. -/
def someSecondByte (b : Byte) : Byte := if b = 0xCD then 0x50 else 0

theorem decode2_of_length (h : instrLength b = some 2) : ∃ i, decode2 defaultEnc2 b (someSecondByte b) = some i := by
  rw [← Option.isSome_iff_exists]
  revert b
  decide

/-- Settles O3: the length of a decoded instruction is `instrLength`'s, and where that is given some second byte
completes an instruction. -/
theorem lengthFromFirstByte : Obligations.LengthFromFirstByte := by
  intro e b
  refine ⟨fun rest i r h => ?_, fun hb rest r h => ?_, fun hb => ?_⟩
  · have hl := (instrLength_eq b).symm.trans (instrLength_of_decode h)
    split_ifs at hl ⊢ <;> exact (Option.some.inj hl).symm
  · have hl := (instrLength_eq b).symm.trans (instrLength_of_decode (i := r.1) h)
    rw [if_pos hb] at hl
    cases hl
  · obtain hl | hl | hl := instrLength_cases b
    · rw [instrLength_eq, if_neg hb] at hl
      split_ifs at hl
    · obtain ⟨i, hd⟩ := decode1_of_length hl
      exact ⟨[], _, decode_one hl hd⟩
    · obtain ⟨i, hd⟩ := decode2_of_length hl
      exact ⟨[someSecondByte b], _, decode_two hl hd⟩

/-! ### The assigned second bytes and the sample words -/

/-- Settles O4: a place is assigned where the default table has a row. -/
theorem assignedSecondBytes : Obligations.AssignedSecondBytes := by
  refine fun b rest => ⟨(exists_congr fun _ => decode_page (c := ⟨.cf, b⟩)).trans ?_,
    (exists_congr fun _ => decode_page (c := ⟨.cd, b⟩)).trans ?_⟩ <;>
  · rw [← Option.isSome_iff_exists]
    revert b
    decide

/-- Settles O5: the words are read by evaluation; a word off the pages leaves the table `ENC2` unread. -/
theorem sampleWordsDecode : Obligations.SampleWordsDecode :=
  ⟨fun _ => ⟨rfl, rfl, rfl, rfl, rfl, rfl, rfl, rfl, rfl, rfl, rfl, rfl, rfl⟩, rfl, rfl, rfl⟩

end Sys2Proof
end

section
/-! SUPPORT. What the fetch reads and where it stops, the step in RUN mode, and the prefix states an instruction
leaves. -/

namespace Sys2Proof.Machine

variable {s t : State} {i : Instr} {b1 b2 : Byte}

/-! ### Reading the ROM -/

theorem romRead_of_past_rom {a : RomAddr} (h : s.conf.part.romSize ≤ a.toNat) :
    romRead s a = .error .pcOutOfBankOrRom :=
  if_neg (Nat.not_lt.2 h)

theorem romRead_of_not_given {a : RomAddr} (h : a.toNat < s.conf.part.romSize) (hn : s.rom.read a.toNat = none) :
    romRead s a = .error .romByteNotGiven := by
  simp only [romRead, h, hn, if_true]

/-- The second byte has room where it lies in the bank and in the ROM (R27). -/
theorem roomForNpc_one_iff :
    s.RoomForNpc 1 ↔ sameBank (s.pc + 1) s.pc = true ∧ (s.pc + 1).toNat < s.conf.part.romSize := by
  rw [← npcUsable_iff (by decide), State.npcUsable, Bool.and_eq_true, decide_eq_true_iff]
  rfl

theorem toNat_pc_succ (h : s.RoomForNpc 1) : (s.pc + 1).toNat = s.pc.toNat + 1 := by
  have hr := romSize_le s.conf.part
  have hn : (s.pc + 1).toNat = (s.pc.toNat + 1) % 8192 := toNat_npc s 1
  obtain ⟨-, hlt⟩ := h
  omega

/-! ### The fetch -/

theorem decodeFetched_of_ok {e : Enc2} {bytes rest : List Byte} (h : decode e bytes = .ok (i, rest)) :
    decodeFetched e bytes = .ok i := by
  simp only [decodeFetched, h]

theorem decodeFetched_of_error {e : Enc2} {bytes : List Byte} {err : DecodeError} (h : decode e bytes = .error err) :
    decodeFetched e bytes = .error .unassignedOpcode := by
  simp only [decodeFetched, h]

theorem instrLength_of_decode_singleton {e : Enc2} {rest : List Byte} (h : decode e [b1] = .ok (i, rest)) :
    instrLength b1 = some 1 := by
  obtain ⟨b, hb, hl, -⟩ | ⟨_, _, hb, -, -⟩ := decode_eq_ok_iff.1 h
  · cases hb
    exact hl
  · cases hb

/-- The decoder asks for a second byte where the first says that there is one. -/
theorem instrLength_of_endOfBytes {e : Enc2} (h : decode e [b1] = .error .endOfBytes) : instrLength b1 = some 2 := by
  obtain hl | hl | hl := instrLength_cases b1
  · simp only [decode, hl] at h
    cases h
  · obtain ⟨i, hd⟩ := decode1_of_length hl
    cases (decode_one (e := e) (rest := []) hl hd).symm.trans h
  · exact hl

theorem fetch_of_no_byte {f : Fault} (h : romRead s s.pc = .error f) : fetch s = .error f := by
  simp only [fetch, h]

theorem fetch_of_unassigned (h : romRead s s.pc = .ok b1) (hl : instrLength b1 = none) :
    fetch s = .error .unassignedOpcode := by
  simp only [fetch, h, hl]

theorem fetch_one (h : romRead s s.pc = .ok b1) (hl : instrLength b1 = some 1) :
    fetch s = decodeFetched s.conf.enc2 [b1] := by
  simp only [fetch, h, hl]

theorem fetch_of_no_room (h : romRead s s.pc = .ok b1) (hl : instrLength b1 = some 2) (hn : ¬ s.RoomForNpc 1) :
    fetch s = .error .pcOutOfBankOrRom := by
  simp only [fetch, h, hl]
  by_cases hb : sameBank (s.pc + 1) s.pc = true
  · have hr : s.conf.part.romSize ≤ (s.pc + 1).toNat := Nat.not_lt.1 fun hlt => hn (roomForNpc_one_iff.2 ⟨hb, hlt⟩)
    rw [if_pos hb, romRead_of_past_rom hr]
  · rw [if_neg hb]

theorem fetch_of_no_second_byte {f : Fault} (h : romRead s s.pc = .ok b1) (hl : instrLength b1 = some 2)
    (hroom : s.RoomForNpc 1) (h2 : romRead s (s.pc + 1) = .error f) : fetch s = .error f := by
  simp only [fetch, h, hl, (roomForNpc_one_iff.1 hroom).1, if_true, h2]

theorem fetch_two (h : romRead s s.pc = .ok b1) (hl : instrLength b1 = some 2) (hroom : s.RoomForNpc 1)
    (h2 : romRead s (s.pc + 1) = .ok b2) : fetch s = decodeFetched s.conf.enc2 [b1, b2] := by
  simp only [fetch, h, hl, (roomForNpc_one_iff.1 hroom).1, if_true, h2]

/-! ### The step in RUN mode -/

/-- Without a reset and without an interrupt a step in RUN mode runs the instruction that the fetch gives, or stops with
the fetch's reason; the other agents change nothing that the fetch reads. -/
theorem step_of_fetch (hrun : s.mode = .run) (hr : s.resetOccurs = false) (hirq : s.atBoundary.irqChoice = .none) :
    (∀ i, fetch s = .ok i → step s = exec i s.atBoundary) ∧ ∀ f, fetch s = .error f → step s = .fault f := by
  have hs : step s = runInstr s.atBoundary := by
    rw [step, if_neg (by simp [hr])]
    simp only [hrun, runStep, hirq]
  have hf : fetch s.atBoundary = fetch s := rfl
  exact ⟨fun i h => by rw [hs, runInstr, hf, h], fun f h => by rw [hs, runInstr, hf, h]⟩

/-- Settles O6: one case for each way through the fetch. -/
theorem stepRunsDecodedInstruction : Obligations.StepRunsDecodedInstruction := by
  intro s hrun hr hirq
  obtain ⟨hok, herr⟩ := step_of_fetch hrun hr hirq
  refine ⟨fun hp => herr _ (fetch_of_no_byte (romRead_of_past_rom hp)),
    fun hp hn => herr _ (fetch_of_no_byte (romRead_of_not_given hp hn)), fun b1 h1 => ⟨fun i hd => hok i ?_,
      fun hb => herr _ (fetch_of_unassigned h1 ?_), fun hend => ?_⟩⟩
  · rw [fetch_one h1 (instrLength_of_decode_singleton hd), decodeFetched_of_ok hd]
  · rw [instrLength_eq, if_pos (by simpa using hb)]
  · have hl := instrLength_of_endOfBytes hend
    refine ⟨fun hn => herr _ (fetch_of_no_room h1 hl hn), fun hroom hn => herr _ ?_, fun b2 hroom h2 =>
      ⟨fun i hd => hok i ?_, fun err hd => herr _ ?_⟩⟩
    · have hlt := (roomForNpc_one_iff.1 hroom).2
      exact fetch_of_no_second_byte h1 hl hroom (romRead_of_not_given hlt (by rwa [toNat_pc_succ hroom]))
    · rw [fetch_two h1 hl hroom h2, decodeFetched_of_ok hd]
    · rw [fetch_two h1 hl hroom h2, decodeFetched_of_error hd]

/-! ### The prefix states -/

theorem setsBankPrefix_iff : setsBankPrefix i = true ↔ i = .bank := by
  unfold setsBankPrefix
  split <;> simp_all

theorem skipsVertically_iff : skipsVertically i = true ↔ i = .cla ∨ ∃ n, i = .lai n := by
  unfold skipsVertically
  split <;> simp_all

/-- Settles O24: every instruction ends with the prefix states of `exec_listed`. -/
theorem prefixStatesAfterInstruction : Obligations.PrefixStatesAfterInstruction := by
  intro i s t h
  have hbnk : t.bnk = setsBankPrefix i := congrArg State.bnk (exec_listed h)
  have hvsk : t.vsk = (skipsVertically i && s.conf.vskip) := congrArg State.vsk (exec_listed h)
  rw [hbnk, hvsk, Bool.and_eq_true, skipsVertically_iff]
  exact ⟨setsBankPrefix_iff, Iff.rfl⟩

end Sys2Proof.Machine
end

section
/-! SUPPORT. The accumulator, its exchanges with the other registers, the rotates through carry, the steps of a register
modulo 16, and the setting of a user flag. -/

namespace Sys2Proof.Machine

variable {s : State} {i : Instr} {cycles len : Nat}

/-! ### Encodings -/

/-- The codes of an instruction of one byte, both ways, from what the decoder answers on that byte. -/
theorem codedAs_one_byte {b : Byte} (hl : instrLength b = some 1) (hd : decode1 b = some i) (hc : i.cycles = cycles) :
    CodedAs i [b] cycles :=
  ⟨fun _ => ⟨decode_one hl hd, (coded_of_decode1 hd).1⟩, hc⟩

/-- The same for two bytes on which every table `ENC2` agrees. -/
theorem codedAs_two_bytes {b1 b2 : Byte} (hl : instrLength b1 = some 2) (hd : ∀ e, decode2 e b1 b2 = some i)
    (hc : i.cycles = cycles) : CodedAs i [b1, b2] cycles :=
  ⟨fun e => ⟨decode_two hl (hd e), (coded_of_decode2 hl (hd e)).1⟩, hc⟩

theorem codedAs_sfb (n : Nibble) : CodedAs (.sfb n) [0x70 + n.setWidth 8] 1 := by
  have hl : instrLength (0x70 + n.setWidth 8) = some 1 := by revert n; decide
  have hd : decode1 (0x70 + n.setWidth 8) = some (.sfb n) := by revert n; decide
  exact codedAs_one_byte hl hd rfl

/-! ### Moves and exchanges -/

/-- Settles O26: no move or exchange writes PC, so each ends at NPC with the registers it names written. -/
theorem registerMovesAndExchanges : Obligations.RegisterMovesAndExchanges := by
  refine ⟨⟨?_, ?_, ?_, ?_, ?_, ?_, ?_, ?_, ?_, ?_⟩, fun s => ⟨fun h => ?_, fun h => ?_⟩⟩
  iterate 6 exact codedAs_one_byte rfl rfl rfl
  iterate 4 exact codedAs_two_bytes rfl (fun _ => rfl) rfl
  · exact ⟨advance_ended h, advance_ended h, advance_ended h, advance_ended h, advance_ended h, advance_ended h⟩
  · exact ⟨advance_ended h, advance_ended h, advance_ended h, advance_ended h⟩

/-! ### The rotates through carry -/

/-- The word that RAR leaves in AC: CF enters at bit 3. -/
theorem rotateRight_eq_ofNat (c : Bool) (v : Nibble) :
    (BitVec.ofBool c ++ v.extractLsb' 1 3 : Nibble) = BitVec.ofNat 4 (v.toNat / 2 + 8 * c.toNat) := by
  revert c v
  decide

/-- The word that RAL leaves in AC: CF enters at bit 0. -/
theorem rotateLeft_eq_ofNat (c : Bool) (v : Nibble) :
    (v.extractLsb' 0 3 ++ BitVec.ofBool c : Nibble) = BitVec.ofNat 4 (2 * v.toNat + c.toNat) := by
  revert c v
  decide

theorem bit0_eq_decide_odd (v : Nibble) : v.getLsbD 0 = decide (v.toNat % 2 = 1) := by
  revert v
  decide

theorem bit3_eq_decide_le (v : Nibble) : v.getLsbD 3 = decide (8 ≤ v.toNat) := by
  revert v
  decide

theorem exec_rar_of_room (h : s.RoomForNpc 1) :
    exec .rar s =
      .next (.ended 1 { s with ac := BitVec.ofNat 4 (s.ac.toNat / 2 + 8 * s.cf.toNat),
                               cf := decide (s.ac.toNat % 2 = 1) }) := by
  rw [← rotateRight_eq_ofNat, ← bit0_eq_decide_odd]
  exact advance_ended h

/-! ### CF, a user flag, and NOP -/

/-- SFB sets the flag it names and keeps the other fifteen (R216). -/
theorem exec_sfb_of_room (n : Nibble) (h : s.RoomForNpc 1) :
    ∃ f : Vector Bool 16, exec (.sfb n) s = .next (.ended 1 { s with uf := f }) ∧ f[n.toNat] = true ∧
      ∀ m : Nibble, m ≠ n → f[m.toNat] = s.uf[m.toNat] :=
  ⟨s.uf.set n.toNat true, advance_ended h, Vector.getElem_set_self _,
    fun _ hm => Vector.getElem_set_ne _ _ fun he => hm (BitVec.eq_of_toNat_eq he.symm)⟩

/-- Settles O28: CF or one flag is written, or nothing, and RAR is the rotate of `exec_rar_of_room`. -/
theorem carryRotateUserFlagAndNop : Obligations.CarryRotateUserFlagAndNop := by
  refine ⟨⟨?_, ?_, ?_, ?_⟩, fun n => ⟨codedAs_sfb n, fun s h =>
    ⟨advance_ended h, advance_ended h, exec_rar_of_room h, advance_ended h, exec_sfb_of_room n h⟩⟩⟩
  iterate 4 exact codedAs_one_byte rfl rfl rfl

/-! ### Steps modulo 16 -/

theorem ofNat_add_one_eq_zero_iff (v : Nibble) : BitVec.ofNat 4 (v.toNat + 1) = 0 ↔ v = 15 := by
  revert v
  decide

theorem ofNat_add_fifteen_eq_zero_iff (v : Nibble) : BitVec.ofNat 4 (v.toNat + 15) = 0 ↔ v = 1 := by
  revert v
  decide

/-- An increment carries out of 15 alone. -/
theorem increment_eq (v : Nibble) : increment v = (BitVec.ofNat 4 (v.toNat + 1), decide (v = 15)) := by
  revert v
  decide

theorem add4_fifteen_eq (v : Nibble) : add4 v 15 false = (BitVec.ofNat 4 (v.toNat + 15), decide (v ≠ 0)) := by
  revert v
  decide

/-- A decrement borrows at 0 alone; `DEC_CF` says whether CF is that borrow or its complement (log 12). -/
theorem decrement_eq (c : Conf) (v : Nibble) :
    decrement c v = (BitVec.ofNat 4 (v.toNat + 15), decide (c.decCf = .borrowInverted ↔ v ≠ 0)) := by
  rw [decrement, add4_fifteen_eq]
  cases c.decCf <;> simp

/-- An instruction that loads AC and CF, and sets ZF from AC. -/
theorem advance_setAcCZ {v : Nibble} {c : Bool} {p : Prop} [Decidable p] (hp : v = 0 ↔ p) (h : s.RoomForNpc len) :
    advance len (s.setAcCZ (v, c)) = .next (.ended len { s with ac := v, cf := c, zf := decide p }) := by
  rw [← isZero_eq_decide hp]
  exact advance_ended (s := s.setAcCZ (v, c)) h

/-- An instruction that writes DPL and sets ZF from it. -/
theorem advance_setLowPointerZ_hl {v : Nibble} {p : Prop} [Decidable p] (hp : v = 0 ↔ p) (h : s.RoomForNpc len) :
    advance len (s.setLowPointerZ .hl v) = .next (.ended len { s with dpl := v, zf := decide p }) := by
  rw [← isZero_eq_decide hp]
  exact advance_ended (s := s.setLowPointerZ .hl v) h

/-- An instruction that writes DPY and sets ZF from it. -/
theorem advance_setLowPointerZ_xy {v : Nibble} {p : Prop} [Decidable p] (hp : v = 0 ↔ p) (h : s.RoomForNpc len) :
    advance len (s.setLowPointerZ .xy v) = .next (.ended len { s with dpy := v, zf := decide p }) := by
  rw [← isZero_eq_decide hp]
  exact advance_ended (s := s.setLowPointerZ .xy v) h

theorem exec_ia : exec .ia s = advance 1 (s.setAcCZ (BitVec.ofNat 4 (s.ac.toNat + 1), decide (s.ac = 15))) := by
  rw [← increment_eq]
  rfl

theorem exec_da :
    exec .da s =
      advance 1 (s.setAcCZ (BitVec.ofNat 4 (s.ac.toNat + 15), decide (s.conf.decCf = .borrowInverted ↔ s.ac ≠ 0))) := by
  rw [← decrement_eq]
  rfl

theorem exec_ral :
    exec .ral s = advance 1 (s.setAcCZ (BitVec.ofNat 4 (2 * s.ac.toNat + s.cf.toNat), decide (8 ≤ s.ac.toNat))) := by
  rw [← rotateLeft_eq_ofNat, ← bit3_eq_decide_le]
  rfl

/-- Settles O34: each ends with the register stepped or rotated, and ZF of its new value. -/
theorem incrementsDecrementsAndRotateLeft : Obligations.IncrementsDecrementsAndRotateLeft := by
  intro s h
  rw [exec_ia, exec_da, exec_ral]
  refine ⟨?_, ?_, ?_, ?_, ?_, ?_, ?_⟩
  · exact advance_setAcCZ (ofNat_add_one_eq_zero_iff s.ac) h
  · exact advance_setAcCZ (ofNat_add_fifteen_eq_zero_iff s.ac) h
  · exact advance_setAcCZ (ofNat_eq_zero_iff _) h
  · exact advance_setLowPointerZ_hl (ofNat_add_one_eq_zero_iff s.dpl) h
  · exact advance_setLowPointerZ_hl (ofNat_add_fifteen_eq_zero_iff s.dpl) h
  · exact advance_setLowPointerZ_xy (ofNat_add_one_eq_zero_iff s.dpy) h
  · exact advance_setLowPointerZ_xy (ofNat_add_fifteen_eq_zero_iff s.dpy) h

end Sys2Proof.Machine
end

section
/-! SUPPORT. The steps of a word of data memory modulo 16. -/

namespace Sys2Proof.Machine

variable {s : State} {len : Nat}

/-- An instruction that steps the word at an 8-bit address writes back that word alone, takes CF from the step, and sets
ZF from the word written (R140). -/
theorem modifyWordCZ_stores {a8 : Byte} {a : RamAddr} {m v : Nibble} {c : Bool} {p : Prop} [Decidable p]
    {f : Nibble → Nibble × Bool} (ha : s.dataAddr a8 = some a) (hm : ramRead s.ram a = some m) (hf : f m = (v, c))
    (hp : v = 0 ↔ p) (h : s.RoomForNpc len) :
    ∃ r, modifyWordCZ len a8 f s = .next (.ended len { s with ram := r, cf := c, zf := decide p }) ∧
      OnlyStored s.ram r [(a, v)] := by
  rw [modifyWordCZ, withWord_of_read _ ha hm, hf, ← isZero_eq_decide hp]
  exact advance_stores (fun r => { s with ram := r, cf := c, zf := isZero v }) a v h

/-- Settles O38: both operands of both steps; an increment leaves 0 at 15 alone, a decrement at 1 alone. -/
theorem memoryIncrementsAndDecrements : Obligations.MemoryIncrementsAndDecrements := by
  refine fun s a m hm => ⟨fun ha h => ⟨?im, ?dm⟩, fun i8 ha h => ⟨?imdr, ?dmdr⟩⟩
  case im => exact modifyWordCZ_stores ha hm (increment_eq m) (ofNat_add_one_eq_zero_iff m) h
  case dm => exact modifyWordCZ_stores ha hm (decrement_eq s.conf m) (ofNat_add_fifteen_eq_zero_iff m) h
  case imdr => exact modifyWordCZ_stores ha hm (increment_eq m) (ofNat_add_one_eq_zero_iff m) h
  case dmdr => exact modifyWordCZ_stores ha hm (decrement_eq s.conf m) (ofNat_add_fifteen_eq_zero_iff m) h

end Sys2Proof.Machine
end

section
/-! SUPPORT. Sums with a word of data memory, the difference of two words as a sum with a complement, and the
comparisons that CM and CI read off that difference. -/

namespace Sys2Proof.Machine

variable {s : State} {len : Nat}

/-! ### The difference of two words -/

/-- Adding a complement subtracts: the carry in stands for no borrow in, the carry out for no borrow out. -/
theorem add4_complement (m v : Nibble) (c : Bool) :
    add4 m (~~~v) c =
      (BitVec.ofNat 4 (16 + m.toNat - (v.toNat + (!c).toNat)), decide (v.toNat + (!c).toNat ≤ m.toNat)) := by
  have hv : v.toNat < 16 := v.isLt
  have hnot : (~~~v).toNat = 15 - v.toNat := BitVec.toNat_not
  have hc : (!c).toNat + c.toNat = 1 := by cases c <;> rfl
  have hsum : m.toNat + (~~~v).toNat + c.toNat = 16 + m.toNat - (v.toNat + (!c).toNat) := by omega
  have hcarry : 16 ≤ 16 + m.toNat - (v.toNat + (!c).toNat) ↔ v.toNat + (!c).toNat ≤ m.toNat := by omega
  simp only [add4, hsum, hcarry]

theorem add4_comm (a b : Nibble) (c : Bool) : add4 a b c = add4 b a c := by
  simp only [add4, Nat.add_comm a.toNat]

/-- SUBC takes from the word AC and the borrow that `SUBC_CIN` reads from CF (log 11). -/
theorem subtractWithCarry_eq {c : Conf} {cf : Bool} {borrow : Nat} (m v : Nibble)
    (hb : borrow = if c.subcCin = .inverted then 1 - cf.toNat else cf.toNat) :
    subtractWithCarry c m v cf =
      (BitVec.ofNat 4 (16 + m.toNat - (v.toNat + borrow)), decide (v.toNat + borrow ≤ m.toNat)) := by
  subst hb
  cases hc : c.subcCin
  case inverted =>
    have hnot : 1 - cf.toNat = (!cf).toNat := by cases cf <;> rfl
    simp only [subtractWithCarry, hc, add4_complement, if_true, hnot]
  case literal => simp only [subtractWithCarry, hc, add4_complement, Bool.not_not, reduceCtorEq, if_false]

/-- CM and CI form AC minus the operand, with no borrow in. -/
theorem compareSum_eq (x v : Nibble) :
    compareSum x v = (BitVec.ofNat 4 (16 + v.toNat - x.toNat), decide (x.toNat ≤ v.toNat)) := by
  rw [compareSum, add4_comm]
  exact add4_complement v x true

theorem ofNat_difference_eq_zero_iff (x v : Nibble) : BitVec.ofNat 4 (16 + v.toNat - x.toNat) = 0 ↔ x = v := by
  have hx : x.toNat < 16 := x.isLt
  have hv : v.toNat < 16 := v.isLt
  rw [ofNat_eq_zero_iff, ← BitVec.toNat_inj]
  omega

/-! ### Sums and differences into AC -/

/-- A sum into AC: ZF is of the sum modulo 16 (R152 to R154). -/
theorem addToAc_of_read {a8 : Byte} {a : RamAddr} {m : Nibble} (c : Bool) (ha : s.dataAddr a8 = some a)
    (hm : ramRead s.ram a = some m) (h : s.RoomForNpc len) :
    addToAc len a8 c s =
      .next (.ended len { s with ac := BitVec.ofNat 4 (s.ac.toNat + m.toNat + c.toNat),
                                 cf := decide (16 ≤ s.ac.toNat + m.toNat + c.toNat),
                                 zf := decide ((s.ac.toNat + m.toNat + c.toNat) % 16 = 0) }) :=
  (withWord_of_read _ ha hm).trans (advance_setAcCZ (ofNat_eq_zero_iff _) h)

theorem exec_subc :
    exec .subc s = withWord s s.hl fun _ m => advance 1 (s.setAcCZ (subtractWithCarry s.conf m s.ac s.cf)) := rfl

/-- Settles O40: AD and ADDR are ADC's sum with no carry in, and SUBC is the difference of `subtractWithCarry_eq`. -/
theorem memoryArithmetic : Obligations.MemoryArithmetic := by
  refine fun s a m hm => ⟨fun ha h => ⟨?ad, ?adc, fun borrow hb => ?subc⟩, fun i8 ha h => ?addr⟩
  case ad => exact addToAc_of_read false ha hm h
  case adc => exact addToAc_of_read s.cf ha hm h
  case subc =>
    rw [exec_subc, withWord_of_read _ ha hm, subtractWithCarry_eq m s.ac hb]
    exact advance_setAcCZ (ofNat_eq_zero_iff _) h
  case addr => exact addToAc_of_read false ha hm h

/-! ### Comparisons -/

/-- A comparison with AC by magnitude: CF where no borrow results, ZF where the difference is 0. -/
theorem advance_compareSum (x : Nibble) (h : s.RoomForNpc len) :
    advance len (s.setCZ (compareSum x s.ac)) =
      .next (.ended len { s with cf := decide (x.toNat ≤ s.ac.toNat), zf := decide (x = s.ac) }) := by
  rw [compareSum_eq, ← isZero_eq_decide (ofNat_difference_eq_zero_iff x s.ac)]
  exact advance_ended (s := s.setCZ (_, _)) h

/-- A comparison for equality, which writes ZF alone. -/
theorem advance_setZ_beq {α : Type} [DecidableEq α] (x y : α) (h : s.RoomForNpc len) :
    advance len (s.setZ (x == y)) = .next (.ended len { s with zf := decide (x = y) }) :=
  advance_ended (s := s.setZ (decide (x = y))) h

/-- Settles O32: CM compares the word with AC by magnitude. -/
theorem compareMagnitude : Obligations.CompareMagnitude :=
  ⟨codedAs_one_byte rfl rfl rfl, fun _ _ m ha hm h => (withWord_of_read _ ha hm).trans (advance_compareSum m h)⟩

/-- Settles O42: CI compares by magnitude as CM does, CLI and CMB for equality. -/
theorem immediateAndBitComparisons : Obligations.ImmediateAndBitComparisons := by
  refine fun s i h => ⟨?ci, ?cli, fun a m t ha hm => ?cmb⟩
  case ci => exact advance_compareSum i h
  case cli => exact advance_setZ_beq s.dpl i h
  case cmb => exact (withWord_of_read _ ha hm).trans (advance_setZ_beq (bitOf s.ac t) (bitOf m t) h)

end Sys2Proof.Machine
end

section
/-! SUPPORT. Loads and exchanges through a data pointer whose low register then steps modulo 16, and the immediates into
register pairs. -/

namespace Sys2Proof.Machine

variable {s : State} {r : PtrReg} {a : RamAddr} {m : Nibble} {len : Nat}

/-! ### The step of a pointer after the access -/

/-- The step of HL reaches DPL and ZF alone: no carry goes on into DPH (R177). -/
theorem stepPointer_hl (d : Nibble) :
    s.stepPointer .hl d =
      { s with dpl := BitVec.ofNat 4 (s.dpl.toNat + d.toNat), zf := decide ((s.dpl.toNat + d.toNat) % 16 = 0) } := by
  rw [← isZero_eq_decide (ofNat_eq_zero_iff _)]
  rfl

/-- The step of XY reaches DPY and ZF alone. -/
theorem stepPointer_xy (d : Nibble) :
    s.stepPointer .xy d =
      { s with dpy := BitVec.ofNat 4 (s.dpy.toNat + d.toNat), zf := decide ((s.dpy.toNat + d.toNat) % 16 = 0) } := by
  rw [← isZero_eq_decide (ofNat_eq_zero_iff _)]
  rfl

theorem stepPointer_roomForNpc {d : Nibble} (h : s.RoomForNpc len) : (s.stepPointer r d).RoomForNpc len := by
  cases r <;> exact h

/-! ### The access, then the step -/

/-- The state that a load or an exchange of the word `m` through the pair `r` ends in, but for PC, with RAM `ram`: AC has
the word and the pointer has stepped by `d`. -/
def State.accessed (s : State) (r : PtrReg) (d m : Nibble) (ram : Memory) : State :=
  State.stepPointer { s with ram := ram, ac := m } r d

theorem accessed_roomForNpc {d : Nibble} {ram : Memory} (h : s.RoomForNpc len) :
    (s.accessed r d m ram).RoomForNpc len :=
  stepPointer_roomForNpc (s := { s with ram := ram, ac := m }) h

theorem exec_laI : exec (.laI r) s = withWord s (s.pointer r) fun _ m => advance 1 (s.accessed r 1 m s.ram) := rfl

theorem exec_laD : exec (.laD r) s = withWord s (s.pointer r) fun _ m => advance 1 (s.accessed r 15 m s.ram) := rfl

theorem exec_xaI :
    exec (.xaI r) s =
      withWord s (s.pointer r) fun a m => advance 1 (s.accessed r 1 m (ramWrite s.ram a s.ac)) := rfl

theorem exec_xaD :
    exec (.xaD r) s =
      withWord s (s.pointer r) fun a m => advance 1 (s.accessed r 15 m (ramWrite s.ram a s.ac)) := rfl

/-- What the four instructions do through either pair where the word holds a value (R177, R178, R180, R181): the loads
keep RAM, the exchanges store AC. -/
theorem steppingAccesses (ha : s.dataAddr (s.pointer r) = some a) (hm : ramRead s.ram a = some m)
    (h : s.RoomForNpc 1) :
    exec (.laI r) s = .next (.ended 1 (s.accessed r 1 m s.ram)) ∧
    exec (.laD r) s = .next (.ended 1 (s.accessed r 15 m s.ram)) ∧
    (∃ q, exec (.xaI r) s = .next (.ended 1 (s.accessed r 1 m q)) ∧ OnlyStored s.ram q [(a, s.ac)]) ∧
    ∃ q, exec (.xaD r) s = .next (.ended 1 (s.accessed r 15 m q)) ∧ OnlyStored s.ram q [(a, s.ac)] := by
  rw [exec_laI, exec_laD, exec_xaI, exec_xaD]
  simp only [withWord_of_read _ ha hm]
  exact ⟨advance_ended (accessed_roomForNpc h), advance_ended (accessed_roomForNpc h),
    advance_stores (s.accessed r 1 m) a s.ac (accessed_roomForNpc h),
    advance_stores (s.accessed r 15 m) a s.ac (accessed_roomForNpc h)⟩

/-- Settles O31: the access is the same through both pairs, and each pair's step reaches its own low register. -/
theorem steppingLoadsAndExchanges : Obligations.SteppingLoadsAndExchanges := by
  refine ⟨⟨?_, ?_, ?_, ?_, ?_, ?_, ?_, ?_⟩, fun s a m hm h => ⟨fun ha => ?hl, fun ha => ?xy⟩⟩
  iterate 8 exact codedAs_one_byte rfl rfl rfl
  case hl =>
    have hacc := steppingAccesses (r := .hl) ha hm h
    simp only [State.accessed, stepPointer_hl] at hacc
    exact hacc
  case xy =>
    have hacc := steppingAccesses (r := .xy) ha hm h
    simp only [State.accessed, stepPointer_xy] at hacc
    exact hacc

/-! ### Immediates into pairs -/

theorem codedAs_ldz (i : Nibble) : CodedAs (.ldz i) [0x60 + i.setWidth 8] 1 := by
  have hl : instrLength (0x60 + i.setWidth 8) = some 1 := by revert i; decide
  have hd : decode1 (0x60 + i.setWidth 8) = some (.ldz i) := by revert i; decide
  exact codedAs_one_byte hl hd rfl

/-- Settles O27: the high word of a pair is bits 7 to 4 of the immediate, the low word bits 3 to 0. -/
theorem immediatesIntoPairs : Obligations.ImmediatesIntoPairs := by
  refine fun i i8 => ⟨⟨codedAs_ldz i, ?_, ?_, ?_⟩, fun s => ⟨fun h => advance_ended h, fun h => ?_⟩⟩
  iterate 3 exact codedAs_two_bytes rfl (fun _ => rfl) rfl
  rw [← hiNibble_eq_div, ← loNibble_eq_mod]
  exact ⟨advance_ended h, advance_ended h, advance_ended h⟩

end Sys2Proof.Machine
end

section
/-! SUPPORT. The 8-bit transfers between the pair of E and AC and an 8-bit register, E the high word. -/

namespace Sys2Proof.Machine

variable {s : State}

/-! ### The pair of E and AC as a byte -/

theorem ea_eq_ofNat (s : State) : s.ea = BitVec.ofNat 8 (16 * s.e.toNat + s.ac.toNat) := by
  have hn : 16 * s.e.toNat + s.ac.toNat = s.ea.toNat := by
    rw [State.ea, toNat_append_eq]
    omega
  rw [hn, BitVec.ofNat_toNat, BitVec.setWidth_eq]

theorem loNibble_eq_ofNat (b : Byte) : loNibble b = BitVec.ofNat 4 b.toNat := rfl

theorem setEa_eq_ofNat (s : State) (b : Byte) :
    s.setEa b = { s with e := BitVec.ofNat 4 (b.toNat / 16), ac := BitVec.ofNat 4 b.toNat } := by
  rw [State.setEa, hiNibble_eq_div, loNibble_eq_ofNat]

/-! ### The transfers -/

/-- A read of an 8-bit register: E and AC take its two words, and no flag changes (R274, R287, R292). -/
theorem advance_setEa {len : Nat} (b : Byte) (h : s.RoomForNpc len) :
    advance len (s.setEa b) =
      .next (.ended len { s with e := BitVec.ofNat 4 (b.toNat / 16), ac := BitVec.ofNat 4 b.toNat }) := by
  rw [← setEa_eq_ofNat]
  exact advance_ended (s := s.setEa b) h

/-- Settles O36: the immediates and the writes from E and AC load one register, the reads are `advance_setEa`. -/
theorem pairTransfers : Obligations.PairTransfers := by
  intro s i h
  rw [← ea_eq_ofNat]
  refine ⟨?lhi, ?lli, ?wttm1, ?wtsp, ?wtsio, ?rtim1, ?rsp, ?rsio⟩
  case lhi | lli | wttm1 | wtsp | wtsio => exact advance_ended h
  case rtim1 => exact advance_setEa s.t1c h
  case rsp => exact advance_setEa s.sp h
  case rsio => exact advance_setEa s.sio h

end Sys2Proof.Machine
end

section
/-! SUPPORT. The write of one user flag, and RFB. -/

namespace Sys2Proof.Machine

variable {s : State}

/-! ### One flag of sixteen -/

/-- The write of one user flag reaches no other: flag numbers that differ are different places (R215). -/
theorem setFlag_other (u : Vector Bool 16) {n m : Nibble} (v : Bool) (hm : m ≠ n) :
    (u.set n.toNat v)[m.toNat] = u[m.toNat] :=
  have hplace : n.toNat ≠ m.toNat := fun he => hm (BitVec.eq_of_toNat_eq he.symm)
  Vector.getElem_set_ne _ _ hplace

/-! ### RFB -/

/-- RFB with room for NPC: flag `n` is 0, ZF the value drawn (R217, `ZF_RFB`). -/
theorem exec_rfb_of_room (n : Nibble) (h : s.RoomForNpc 1) :
    exec (.rfb n) s =
      .next (.ended 1
        { s with uf := s.uf.set n.toNat false, zf := Config.zfAfterRfb s.draws, draws := s.draws + 1 }) :=
  advance_ended h

/-- Settles O45: the new flags are the old ones with flag `n` cleared, ZF is the value that RFB draws. -/
theorem resetUserFlag : Obligations.ResetUserFlag := by
  intro s n h
  refine ⟨s.uf.set n.toNat false, Config.zfAfterRfb s.draws, exec_rfb_of_room n h, ?cleared, fun m hm => ?kept⟩
  case cleared => exact Vector.getElem_set_self _
  case kept => exact setFlag_other s.uf false hm

end Sys2Proof.Machine
end

section
/-! SUPPORT. The port inputs and the read-modify-writes of a port without BANK: on the pins as the environment presents
them, and on the latch or the pins by `PORT_RMW`. -/

namespace Sys2Proof.Machine

variable {s s' : State} {j : Fin 8} {p old : Nibble} {len : Nat}

/-! ### Inputs from the pins -/

theorem pinLevels_of_given {levels : Vector Nibble 16} (p : Nibble) (h : s.env.pins = some levels) :
    s.pinLevels p = levels[p.toNat] := by
  simp only [State.pinLevels, h]

theorem inputToAc_pins (p : Nibble) (hb : s.bnk = false) (h : s.RoomForNpc len) :
    inputToAc len p s =
      .next (.ended len { s with ac := s.pinLevels p, zf := decide (s.pinLevels p = 0), draws := s.draws + 1 }) := by
  rw [inputToAc, withPort_pins _ _ hb]
  exact advance_setAcZ (s := { s with draws := s.draws + 1 }) Iff.rfl h

/-- The draw that IPM makes reaches neither the address nor the bank of its operand. -/
theorem exec_ipm_pins {a : RamAddr} (hb : s.bnk = false) (ha : s.dataAddr s.hl = some a) (h : s.RoomForNpc 1) :
    ∃ r, exec .ipm s = .next (.ended 1 { s with ram := r, draws := s.draws + 1 }) ∧
      OnlyStored s.ram r [(a, s.pinLevels s.dpl)] := by
  have hstore : exec .ipm s =
      advance 1 { s with ram := ramWrite s.ram a (s.pinLevels s.dpl), draws := s.draws + 1 } :=
    exec_ipm.trans ((withPort_pins _ _ hb).trans (withAddr_of_addr (s := { s with draws := s.draws + 1 }) _ ha))
  rw [hstore]
  exact advance_stores (fun r => { s with ram := r, draws := s.draws + 1 }) a (s.pinLevels s.dpl) h

/-- IP45 makes two draws, so port 5 is read in the state that the read of port 4 leaves. -/
theorem exec_ip45_pins (hb : s.bnk = false) (h : s.RoomForNpc 2) :
    exec .ip45 s =
      .next (.ended 2 { s with e := s.pinLevels 4, ac := State.pinLevels { s with draws := s.draws + 1 } 5,
                               draws := s.draws + 2 }) := by
  rw [exec_ip45, withPort_pins 4 _ hb, withPort_pins (s := { s with draws := s.draws + 1 }) 5 _ hb]
  exact advance_ended h

/-- Settles O52: three inputs to AC from the port each names, the store of IPM, and the two reads of IP45. -/
theorem portInputs : Obligations.PortInputs := by
  refine fun s hb => ⟨fun h => ⟨?ip0, ?ip, fun a ha => ?ipm⟩, fun h => ⟨fun i => ?ipdr, ?ip45⟩,
    fun levels p hl => ?given⟩
  case ip0 => exact inputToAc_pins 0 hb h
  case ip => exact inputToAc_pins s.dpl hb h
  case ipm => exact exec_ipm_pins hb ha h
  case ipdr => exact inputToAc_pins i hb h
  case ip45 => exact exec_ip45_pins hb h
  case given => exact pinLevels_of_given p hl

/-! ### Read-modify-writes of a latch -/

/-- `PORT_RMW` gives `old` as the old value of port `p` with latch `j`, and `s'` is the state after that read: the pins
cost a draw, the latch none (R252, log 20). -/
def RmwOldValue (s s' : State) (j : Fin 8) (p old : Nibble) : Prop :=
  (s.conf.portRmw = .latch ∧ old = s.pl[j] ∧ s' = s) ∨
    (s.conf.portRmw = .pins ∧ old = s.pinLevels p ∧ s' = { s with draws := s.draws + 1 })

theorem RmwOldValue.draws_only (h : RmwOldValue s s' j p old) : ∃ d, s' = { s with draws := d } := by
  obtain ⟨-, -, rfl⟩ | ⟨-, -, rfl⟩ := h
  · exact ⟨s'.draws, rfl⟩
  · exact ⟨s.draws + 1, rfl⟩

theorem RmwOldValue.room (h : RmwOldValue s s' j p old) (hr : s.RoomForNpc len) : s'.RoomForNpc len := by
  obtain ⟨d, rfl⟩ := h.draws_only
  exact hr

theorem withPortOld_rmw (k : Nibble → State → Outcome) (hb : s.bnk = false) (hp : p.toNat = latchPort j)
    (ho : RmwOldValue s s' j p old) : withPortOld s p k = k old s' := by
  obtain ⟨hrmw, rfl, rfl⟩ | ⟨hrmw, rfl, rfl⟩ := ho
  · simp only [withPortOld, hb, Bool.false_eq_true, if_false, hrmw, latchIndex_of_latchPort hp]
  · rw [← withPort_pins p k hb]
    simp only [withPortOld, hb, Bool.false_eq_true, if_false, hrmw]

/-- A read-modify-write: the old value through `f`, to the latch and nowhere else. -/
theorem modify_latch (f : Nibble → Nibble) (k : Nibble → State → Outcome) (hb : s.bnk = false)
    (hp : p.toNat = latchPort j) (ho : RmwOldValue s s' j p old) :
    (withPortOld s p fun v s1 => portWrite s1 p (f v) (k v)) = k old { s' with pl := s.pl.set j (f old) } := by
  rw [withPortOld_rmw _ hb hp ho]
  obtain ⟨d, rfl⟩ := ho.draws_only
  exact portWrite_latch (s := { s with draws := d }) (f old) (k old) hb hp

theorem modifyPortZ_latch (f : Nibble → Nibble) (hb : s.bnk = false) (hp : p.toNat = latchPort j)
    (ho : RmwOldValue s s' j p old) (h : s.RoomForNpc len) :
    modifyPortZ len p f s = .next (.ended len { s' with pl := s.pl.set j (f old), zf := decide (f old = 0) }) := by
  rw [modifyPortZ, modify_latch f _ hb hp ho, ← isZero_eq_decide Iff.rfl]
  exact advance_ended (s := { s' with pl := s.pl.set j (f old), zf := isZero (f old) }) (ho.room h)

theorem exec_spb_latch (t : BitVec 2) (hb : s.bnk = false) (hp : s.dpl.toNat = latchPort j)
    (ho : RmwOldValue s s' j s.dpl old) (h : s.RoomForNpc 1) :
    exec (.spb t) s = .next (.ended 1 { s' with pl := s.pl.set j (setBit old t) }) := by
  rw [exec_spb, modify_latch (setBit · t) _ hb hp ho]
  exact advance_ended (s := { s' with pl := s.pl.set j (setBit old t) }) (ho.room h)

/-- Settles O54: all but SPB are `modifyPortZ` on the latch, and SPB leaves ZF alone. -/
theorem portReadModifyWrites : Obligations.PortReadModifyWrites := by
  refine fun s s' j old hb p hp ho => ⟨fun i h => ⟨?andpdr, ?orpdr⟩, fun t hd h => ?byDpl⟩
  case andpdr => exact modifyPortZ_latch (· &&& i) hb hp ho h
  case orpdr => exact modifyPortZ_latch (· ||| i) hb hp ho h
  case byDpl =>
    subst hd
    exact ⟨exec_spb_latch t hb hp ho h, modifyPortZ_latch (clearBit · t) hb hp ho h⟩

end Sys2Proof.Machine
end

section
/-! SUPPORT. The run bits, the enables and the standby modes as instructions; the choice of an interrupt; the step in
HALT and HOLD mode, in the prefix window and at a reset. -/

namespace Sys2Proof.Machine

variable {s : State}

/-! ### Run bits, enables and standby -/

/-- Settles O57: each writes one run bit and ends at NPC. -/
theorem runBits : Obligations.RunBits :=
  fun s h =>
    ⟨advance_ended (s := { s with t0run := true }) h, advance_ended (s := { s with t1run := true }) h,
      advance_ended (s := { s with t0run := false }) h, advance_ended (s := { s with t1run := false }) h,
      advance_ended (s := { s with siorun := true }) h⟩

/-- A group of enable flags with those of the mask set, bit by bit (R282, R283). -/
theorem getLsbD_maskSet (group mask : Nibble) (b : Nat) :
    (group ||| mask).getLsbD b = (if mask.getLsbD b then true else group.getLsbD b) := by
  rw [BitVec.getLsbD_or]
  cases mask.getLsbD b <;> simp

/-- A group of enable flags with those of the mask cleared, bit by bit (R284, R285). -/
theorem getLsbD_maskCleared (group mask : Nibble) {b : Nat} (hb : b < 4) :
    (group &&& ~~~mask).getLsbD b = (if mask.getLsbD b then false else group.getLsbD b) := by
  rw [BitVec.getLsbD_and, BitVec.getLsbD_not, decide_eq_true hb, Bool.true_and]
  cases mask.getLsbD b <;> simp

/-- Settles O58: the groups after EIH, EIL, DIH and DIL are those with the mask set or cleared. -/
theorem interruptEnables : Obligations.InterruptEnables :=
  fun s i h =>
    ⟨advance_ended (s := { s with mse := true }) h, advance_ended (s := { s with mse := false }) h,
      s.edih ||| i, s.edil ||| i, s.edih &&& ~~~i, s.edil &&& ~~~i,
      advance_ended (s := { s with edih := s.edih ||| i }) h, advance_ended (s := { s with edil := s.edil ||| i }) h,
      advance_setZ_beq (s := { s with edih := s.edih &&& ~~~i }) (s.edih &&& ~~~i) 0 h,
      advance_setZ_beq (s := { s with edil := s.edil &&& ~~~i }) (s.edil &&& ~~~i) 0 h,
      fun b hb => ⟨getLsbD_maskSet _ _ b, getLsbD_maskSet _ _ b, getLsbD_maskCleared _ _ hb, getLsbD_maskCleared _ _ hb⟩⟩

/-- HOLD with P33/HOLD at either level (R289, R333). -/
theorem exec_hold_of_room (h : s.RoomForNpc 2) :
    exec .hold s =
      .next (.ended 2 { s with mode := if s.p33High then s.mode else .hold, draws := s.draws + 1 }) :=
  advance_ended (s := { s with mode := if s.p33High then s.mode else .hold, draws := s.draws + 1 }) h

/-- Settles O59: P33/HOLD is bit 3 of port 3. -/
theorem standbyEntry : Obligations.StandbyEntry := by
  refine fun s h => ⟨advance_ended (s := { s with mode := .halt }) h, fun hlow => ?low, fun hhigh => ?high⟩
  case low =>
    have hp : s.p33High = false := hlow
    rw [exec_hold_of_room h, hp, if_neg Bool.false_ne_true]
  case high =>
    have hp : s.p33High = true := hhigh
    rw [exec_hold_of_room h, hp, if_pos rfl]

/-! ### The choice of an interrupt -/

theorem irqQualifies_iff (k : Fin 8) :
    s.irqQualifies k = true ↔
      s.mse = true ∧ (s.edih ++ s.edil : BitVec 8).getLsbD (s.conf.irqEnableMap[k]).val = true ∧
        s.irq.getLsbD k.val = true := by
  simp only [State.irqQualifies, State.irqEnabled, Bool.and_eq_true]

theorem irqQualifies_of_master_off (h : s.mse = false) (k : Fin 8) : ¬ s.irqQualifies k = true := by
  simp [State.irqQualifies, h]

/-- `IRQ_PRIORITY` does not put source `j` before source `k` (R304, log 23). -/
def IrqPrecedes (c : Conf) (k j : Fin 8) : Prop :=
  (c.irqRank[k]).val < (c.irqRank[j]).val ∨ ((c.irqRank[k]).val = (c.irqRank[j]).val ∧ k ≤ j)

theorem IrqPrecedes.refl (c : Conf) (k : Fin 8) : IrqPrecedes c k k := .inr ⟨rfl, le_rfl⟩

theorem IrqPrecedes.trans {c : Conf} {k j l : Fin 8} (hkj : IrqPrecedes c k j) (hjl : IrqPrecedes c j l) :
    IrqPrecedes c k l := by
  simp only [IrqPrecedes] at *
  omega

/-- Of two sources in number order, `irqBetter` is one of them and neither comes before it. -/
theorem irqBetter_precedes {c : Conf} {j k : Fin 8} (h : j ≤ k) :
    (irqBetter c j k = j ∨ irqBetter c j k = k) ∧ IrqPrecedes c (irqBetter c j k) j ∧
      IrqPrecedes c (irqBetter c j k) k := by
  unfold irqBetter
  split
  next hlt => exact ⟨.inr rfl, .inl hlt, .refl c k⟩
  next hle =>
    refine ⟨.inl rfl, .refl c j, ?_⟩
    simp only [IrqPrecedes]
    omega

/-- One source more in the search that `chooseIrq` makes. -/
def State.pickIrq (s : State) (best : Option (Fin 8)) (k : Fin 8) : Option (Fin 8) :=
  if s.irqQualifies k then
    match best with
    | none => some k
    | some j => some (irqBetter s.conf j k)
  else best

theorem chooseIrq_of_master_on (h : s.mse = true) :
    s.chooseIrq = ([0, 1, 2, 3, 4, 5, 6, 7] : List (Fin 8)).foldl s.pickIrq none :=
  if_pos h

/-- `best` is the result of a search through the sources `seen`: none where none of them qualifies, else one that
qualifies and that no other qualifying one of them comes before. -/
def State.PicksFirst (s : State) (seen : List (Fin 8)) : Option (Fin 8) → Prop
  | none => ∀ j ∈ seen, ¬ s.irqQualifies j = true
  | some k => s.irqQualifies k = true ∧ k ∈ seen ∧ ∀ j ∈ seen, s.irqQualifies j = true → IrqPrecedes s.conf k j

theorem State.PicksFirst.skip {seen : List (Fin 8)} {best : Option (Fin 8)} {k : Fin 8} (h : s.PicksFirst seen best)
    (hk : ¬ s.irqQualifies k = true) : s.PicksFirst (seen ++ [k]) best := by
  cases best with
  | none =>
    intro j hj
    obtain hj | hj := List.mem_append.1 hj
    · exact h j hj
    · rwa [List.mem_singleton.1 hj]
  | some b =>
    obtain ⟨hq, hb, hfirst⟩ := h
    refine ⟨hq, List.mem_append_left _ hb, fun j hj hqj => ?_⟩
    obtain hj | hj := List.mem_append.1 hj
    · exact hfirst j hj hqj
    · exact absurd (List.mem_singleton.1 hj ▸ hqj) hk

theorem State.PicksFirst.start {seen : List (Fin 8)} {k : Fin 8} (h : s.PicksFirst seen none)
    (hk : s.irqQualifies k = true) : s.PicksFirst (seen ++ [k]) (some k) := by
  refine ⟨hk, by simp, fun j hj hqj => ?_⟩
  obtain hj | hj := List.mem_append.1 hj
  · exact absurd hqj (h j hj)
  · rw [List.mem_singleton.1 hj]
    exact .refl s.conf k

theorem State.PicksFirst.better {seen : List (Fin 8)} {b k : Fin 8} (h : s.PicksFirst seen (some b))
    (hk : s.irqQualifies k = true) (hle : ∀ j ∈ seen, j ≤ k) :
    s.PicksFirst (seen ++ [k]) (some (irqBetter s.conf b k)) := by
  obtain ⟨hq, hb, hfirst⟩ := h
  obtain ⟨hor, hpb, hpk⟩ := irqBetter_precedes (c := s.conf) (hle b hb)
  refine ⟨?_, ?_, fun j hj hqj => ?_⟩
  · obtain h | h := hor <;> rwa [h]
  · obtain h | h := hor <;> simp [h, hb]
  · obtain hj | hj := List.mem_append.1 hj
    · exact hpb.trans (hfirst j hj hqj)
    · rwa [List.mem_singleton.1 hj]

/-- One source more, numbered above those seen. -/
theorem State.PicksFirst.pickIrq {seen : List (Fin 8)} {best : Option (Fin 8)} {k : Fin 8} (h : s.PicksFirst seen best)
    (hle : ∀ j ∈ seen, j ≤ k) : s.PicksFirst (seen ++ [k]) (s.pickIrq best k) := by
  unfold State.pickIrq
  split
  next hk =>
    cases best with
    | none => exact h.start hk
    | some b => exact h.better hk hle
  next hk => exact h.skip hk

/-- A search through sources in number order goes on from where it is. -/
theorem State.PicksFirst.foldl (ks : List (Fin 8)) :
    ∀ {seen : List (Fin 8)} {best : Option (Fin 8)}, s.PicksFirst seen best → (seen ++ ks).Pairwise (· ≤ ·) →
      s.PicksFirst (seen ++ ks) (ks.foldl s.pickIrq best) := by
  induction ks with
  | nil =>
    intro seen best h _
    rwa [List.append_nil]
  | cons k ks ih =>
    intro seen best h hsorted
    obtain ⟨-, -, hbelow⟩ := List.pairwise_append.1 hsorted
    have hle : ∀ j ∈ seen, j ≤ k := fun j hj => hbelow j hj k List.mem_cons_self
    rw [List.append_cons] at hsorted ⊢
    exact ih (h.pickIrq hle) hsorted

/-- With MSE 0 no source qualifies; with MSE 1 the search runs through all of them. -/
theorem picksFirst_chooseIrq (s : State) : s.PicksFirst [0, 1, 2, 3, 4, 5, 6, 7] s.chooseIrq := by
  cases hm : s.mse with
  | false =>
    rw [chooseIrq_none_of_master_off hm]
    exact fun j _ => irqQualifies_of_master_off hm j
  | true =>
    have hnil : s.PicksFirst [] none := fun _ hj => absurd hj List.not_mem_nil
    rw [chooseIrq_of_master_on hm]
    exact hnil.foldl [0, 1, 2, 3, 4, 5, 6, 7] (by decide)

theorem mem_irqSources (k : Fin 8) : k ∈ ([0, 1, 2, 3, 4, 5, 6, 7] : List (Fin 8)) := by
  revert k
  decide

theorem chooseIrq_eq_none_iff : s.chooseIrq = none ↔ ∀ k, ¬ s.irqQualifies k = true := by
  have h := picksFirst_chooseIrq s
  constructor
  · intro hn k
    rw [hn] at h
    exact h k (mem_irqSources k)
  · intro hnone
    cases hc : s.chooseIrq with
    | none => rfl
    | some k =>
      rw [hc] at h
      exact absurd h.1 (hnone k)

theorem chooseIrq_some {k : Fin 8} (hk : s.chooseIrq = some k) :
    s.irqQualifies k = true ∧ ∀ j, s.irqQualifies j = true → IrqPrecedes s.conf k j := by
  have h := picksFirst_chooseIrq s
  rw [hk] at h
  obtain ⟨hq, -, hfirst⟩ := h
  exact ⟨hq, fun j => hfirst j (mem_irqSources j)⟩

/-- Settles O15: the search keeps the first of the qualifying sources it has seen. -/
theorem interruptChosenWhereOneQualifies : Obligations.InterruptChosenWhereOneQualifies := by
  refine fun s => ⟨?_, fun k hk => ?_⟩
  · simp only [← irqQualifies_iff]
    exact chooseIrq_eq_none_iff
  · obtain ⟨hq, hfirst⟩ := chooseIrq_some hk
    obtain ⟨hm, hk⟩ := (irqQualifies_iff k).1 hq
    exact ⟨⟨hm, hk⟩, fun j he hr => hfirst j ((irqQualifies_iff j).2 ⟨hm, he, hr⟩)⟩

/-! ### The step by mode -/

theorem step_of_reset (h : s.resetOccurs = true) : step s = .next s.afterReset := if_pos h

theorem step_of_run (hm : s.mode = .run) (hr : s.resetOccurs = false) : step s = runStep s.atBoundary := by
  simp only [step, hr, hm, Bool.false_eq_true, if_false]

theorem step_of_halt (hm : s.mode = .halt) (hr : s.resetOccurs = false) :
    step s = haltStep s.env.haltRelease s.atBoundary := by
  simp only [step, hr, hm, Bool.false_eq_true, if_false]

theorem step_of_hold (hm : s.mode = .hold) (hr : s.resetOccurs = false) : step s = holdStep s := by
  simp only [step, hr, hm, Bool.false_eq_true, if_false]

/-! ### HALT mode -/

theorem haltStep_of_take {k : Fin 8} (release : Bool) (h : s.irqChoice = .take k) :
    haltStep release s = .next { s.takeInterrupt k with mode := .run } := by
  simp only [haltStep, h]

theorem haltStep_of_none (release : Bool) (h : s.irqChoice = .none) :
    haltStep release s = .next { s with mode := if release then .run else s.mode } := by
  simp only [haltStep, h]

/-- Settles O13: one case for each way a boundary in HALT mode goes. -/
theorem haltModeGoesOnOrEnds : Obligations.HaltModeGoesOnOrEnds := by
  intro s hm hr
  rw [step_of_halt hm hr]
  refine ⟨fun k hk => haltStep_of_take _ hk, fun hn hrel => ?released, fun hn hrel => ?goesOn⟩
  case released => rw [haltStep_of_none _ hn, hrel, if_pos rfl]
  case goesOn => rw [haltStep_of_none _ hn, hrel, if_neg Bool.false_ne_true]

/-! ### HOLD mode -/

theorem holdStep_of_low (h : s.p33High = false) :
    holdStep s = .next { s.latchRequests with draws := s.draws + 1 } := by
  rw [holdStep, h, if_neg Bool.false_ne_true]

theorem holdStep_of_high (h : s.p33High = true) : holdStep s = .next s.latchRequests.releaseHold := by
  rw [holdStep, h, if_pos rfl]

/-- Settles O14: with the pin low only `latchRequests` acts, with it high `releaseHold` as well. -/
theorem holdModeGoesOnOrEnds : Obligations.HoldModeGoesOnOrEnds := by
  intro s hm hr
  rw [step_of_hold hm hr]
  exact ⟨holdStep_of_low, fun hhigh => ⟨s.latchRequests.releaseHold, holdStep_of_high hhigh, rfl⟩⟩

/-! ### The prefix window -/

/-- An interrupt chosen where BNK or VSK is 1 is left to IRQ_WINDOW_RULE (R309). -/
theorem irqChoice_in_window {k : Fin 8} (hw : s.bnk = true ∨ s.vsk = true) (hk : s.chooseIrq = some k) :
    (s.conf.irqWindow = .undefined → s.irqChoice = .undefined) ∧ (s.conf.irqWindow = .defer → s.irqChoice = .none) := by
  have hp : (s.bnk || s.vsk) = true := Bool.or_eq_true_iff.2 hw
  constructor <;> intro hrule <;> simp only [State.irqChoice, hk, hp, if_true, hrule]

theorem runStep_of_undefined (h : s.irqChoice = .undefined) : runStep s = .fault .interruptInPrefixWindow := by
  simp only [runStep, h]

theorem runStep_of_none (h : s.irqChoice = .none) : runStep s = runInstr s := by
  simp only [runStep, h]

/-- Settles O17: the boundary changes neither the prefix states nor the parameter. -/
theorem prefixWindow : Obligations.PrefixWindow := by
  intro s k hm hr hw hk
  obtain ⟨hundefined, hdefer⟩ := irqChoice_in_window (s := s.atBoundary) hw hk
  rw [step_of_run hm hr]
  exact ⟨fun h => runStep_of_undefined (hundefined h), fun h => ⟨hdefer h, runStep_of_none (hdefer h)⟩⟩

/-! ### Reset -/

theorem resetOccurs_iff :
    s.resetOccurs = true ↔
      (s.env.resLow = true ∧ s.p33High = true) ∨
        (s.env.watchdogExpired = true ∧ s.conf.options.watchdog = true ∧ s.mode ≠ .hold) := by
  simp only [State.resetOccurs, Bool.or_eq_true, Bool.and_eq_true, bne_iff_ne]

theorem resetOccurs_of_pin_low (hp : s.p33High = false) (hw : s.env.watchdogExpired = false) :
    s.resetOccurs = false := by
  rw [State.resetOccurs, hp, hw, Bool.and_false, Bool.false_and, Bool.or_false]

/-- Settles O12: what a reset leaves is `State.resetOf` with the same ROM, for the same chip (O11 gives its values). -/
theorem resetByPinOrWatchdog : Obligations.ResetByPinOrWatchdog := by
  refine fun s => ⟨fun hreset => ?_, resetOccurs_of_pin_low⟩
  obtain ⟨ht0c, hp0, -, hp2, -, -, -, -, -, -, hpc, hmse, hirq, hbnk, hvsk, hmode, hram, -⟩ := resetValues s.conf
  exact ⟨s.afterReset, step_of_reset (resetOccurs_iff.2 hreset), hpc, hmse, hbnk, hvsk, hmode, hirq, ht0c, hp2, hp0, hram,
    rfl, rfl⟩

end Sys2Proof.Machine
end
